-- ==== Sys2Proof/Word.lean ====
section
/-! DEFINITION. The word types of the block (00_scope.md R8): unsigned bit vectors of fixed width. -/

namespace Sys2Proof

/-- A byte, 0..255 (R8). -/
abbrev Byte := BitVec 8

/-- `u32` (R8): the width of every datapath word and of every bus transaction. -/
abbrev Word := BitVec 32

/-- `u64` (R8): the width of BITLEN. -/
abbrev Word64 := BitVec 64

/-- A rotation amount, 1..31: the only range `rotl32` has a meaning for (R172). Rotation by 0 or by 32
is not admitted, as 93_implementation_defined.md U9 asks (assumption 11). -/
abbrev RotAmount := { s : Nat // 1 ≤ s ∧ s ≤ 31 }

end Sys2Proof
end

