-- ==== Sys2Proof/Syntax.lean ====
section
/-! DEFINITION. The commands of the opcode table (30_encoding.md R81, R85): one constructor a row. -/

namespace Sys2Proof

/-- A command of the block, as a CTRL write gives it (30_encoding.md R80, R84). -/
inductive Instr
  /-- INIT (R101): open a new message. -/
  | init
  /-- ABSORB n (R102): append n message bytes from DATA_IN; n = NB + 1 is 1..4 (R82). -/
  | absorb (n : Nat)
  /-- FINISH (R103): pad the message and compress the final block or blocks. -/
  | finish
  deriving DecidableEq, Repr

end Sys2Proof
end

