-- ==== Sys2Proof/WellFormed.lean ====
section
/-! DEFINITION. Which commands the encoding can express: an ABSORB's byte count is 1..4 (30_encoding.md R82, R92). -/

namespace Sys2Proof

/-- A command some word encodes. "An ABSORB n with n outside 1..4 has no expansion, and a host assembler refuses it"
(R92). -/
def Instr.wf : Instr → Bool
  | .init => true
  | .absorb n => decide (1 ≤ n) && decide (n ≤ 4)
  | .finish => true

end Sys2Proof
end

