-- ==== Sys2Proof/Decode.lean ====
section
/-! DEFINITION. The command word (30_encoding.md R80 to R88): its fields, its decoder, which is total on every 32-bit word
and rejects by name, and its encoder. -/

namespace Sys2Proof

/-- The classes of illegal command words (30_encoding.md R86). -/
inductive IllegalWord
  /-- Some bit of CW[31:6] is set (R83). -/
  | reservedBitSet
  /-- CMD is 1 or 3 and NB is not 0 (R82). -/
  | operandNotZero
  /-- CMD is 0 or 4..15 (R81). -/
  | unknownCommand
  deriving DecidableEq, Repr

/-- CMD = CW[3:0] (R80). -/
def fieldCMD (cw : Word) : BitVec 4 := cw.extractLsb' 0 4

/-- NB = CW[5:4] (R80). -/
def fieldNB (cw : Word) : BitVec 2 := cw.extractLsb' 4 2

/-- RSV = CW[31:6] (R80). -/
def fieldRSV (cw : Word) : BitVec 26 := cw.extractLsb' 6 26

/-- decode (R84); an illegal word is rejected with its class of R86. -/
def decode (cw : Word) : Except IllegalWord Instr :=
  if fieldRSV cw ≠ 0 then .error .reservedBitSet
  else if fieldCMD cw = 0x1 ∧ fieldNB cw = 0 then .ok .init
  else if fieldCMD cw = 0x2 then .ok (.absorb ((fieldNB cw).toNat + 1))
  else if fieldCMD cw = 0x3 ∧ fieldNB cw = 0 then .ok .finish
  else if fieldCMD cw = 0x1 ∨ fieldCMD cw = 0x3 then .error .operandNotZero
  else .error .unknownCommand

/-- The command word of a command (30_encoding.md R85, R92): NB holds n - 1. -/
def encode : Instr → Word
  | .init => 0x00000001
  | .absorb n => 0x00000002 ||| (BitVec.ofNat 32 (n - 1) <<< 4)
  | .finish => 0x00000003

/-- The row of the opcode map a command belongs to: its match (R85). -/
def Instr.rowMatch : Instr → Word
  | .init => 0x00000001
  | .absorb _ => 0x00000002
  | .finish => 0x00000003

/-- The row of the opcode map a command belongs to: its mask (R85). -/
def Instr.rowMask : Instr → Word
  | .init => 0xFFFFFFFF
  | .absorb _ => 0xFFFFFFCF
  | .finish => 0xFFFFFFFF

/-- The command the decoder reads from a word numbered as spec/opcode_table.json numbers it. A command word crosses the
bus as a 32-bit number (20_memory.md R68), so there is no byte layout to undo; a number that does not fit 32 bits is no
command word. -/
def decodeTableWord (nbits w : Nat) : Option Instr :=
  let v := w % 2 ^ nbits
  if v < 2 ^ 32 then
    match decode (BitVec.ofNat 32 v) with
    | .ok i => some i
    | .error _ => none
  else none

end Sys2Proof
end

