-- ==== Sys2Proof/Config.lean ====
section
/-! DEFINITION. What the platform or the implementation fixes and the spec leaves open (00_scope.md R7, 10_state.md
R44), and the free value the unspecified reset contents are taken from (R43). The `opaque` constants have no body: no
proof can see what they are. -/

namespace Sys2Proof

/-- `run_next` (10_state.md R32): what the accumulate step does when the current block ends. -/
inductive Machine.RunNext
  /-- A message block formed by ABSORB: return to OPEN. -/
  | TO_OPEN
  /-- The first of two padding blocks: start the second. -/
  | TO_PAD2
  /-- The last padding block: go to DONE. -/
  | TO_DONE
  deriving DecidableEq, Repr, Inhabited

/-- One choice of the contents that reset leaves unspecified (10_state.md R43, 93_implementation_defined.md U1):
A..D, AA..DD, X[0..15], rnd and run_next. -/
structure Machine.Unspecified where
  A : Word
  B : Word
  C : Word
  D : Word
  AA : Word
  BB : Word
  CC : Word
  DD : Word
  X : Vector Word 16
  rnd : Fin 65
  run_next : Machine.RunNext
  deriving DecidableEq, Repr, Inhabited

/-- FREE VALUE (assumption 3): the contents the k-th reset step leaves in the registers that R43 and R270 call
unspecified. Nothing constrains it. -/
opaque Config.unspecified : Nat → Machine.Unspecified

/-- Which 64-byte window of the platform's address space the block occupies: open (U2, 92_eei_decisions.md D3). -/
opaque Config.windowIndex : Nat

/-- `BASE` (00_scope.md R7, 20_memory.md R72): an open parameter, a multiple of 64 that the platform chooses. -/
def Config.BASE : Nat := 64 * Config.windowIndex

/-- By how much BLOCK_CYCLES exceeds its least value: open (U3, D22). -/
opaque Config.extraCycles : Nat

/-- `BLOCK_CYCLES` (70_reset_and_hazards.md R279): an open parameter, at least 1. No step depends on it. -/
def Config.BLOCK_CYCLES : Nat := Config.extraCycles + 1

end Sys2Proof
end

