-- ==== Sys2Proof/Machine/State.lean ====
section
/-! DEFINITION. The machine's state (10_state.md R20): the block's complete state as `Block`, and around it what a step
needs from outside (the reset pin, the host's transactions, the interleaving). Reset values: R43. -/

namespace Sys2Proof.Machine

/-- The sequencer state `phase` (10_state.md R30). -/
inductive Phase
  /-- No message is open. -/
  | IDLE
  /-- A message is open: ABSORB and FINISH are accepted. -/
  | OPEN
  /-- The engine is compressing a block: every command is rejected. -/
  | RUN
  /-- The digest is complete and visible. -/
  | DONE
  deriving DecidableEq, Repr

/-- The values ERRCODE takes (10_state.md R27, 60_exceptions.md R241); codes 4..15 are never produced and are not
representable (93_implementation_defined.md U5, assumption 10). -/
inductive ErrCode
  /-- 0: no error since the last INIT or reset. -/
  | NONE
  /-- 1: a CTRL write whose word decodes to ILLEGAL (R242). -/
  | ILLEGAL
  /-- 2: a legal command written while phase = RUN (R243). -/
  | BUSY
  /-- 3: ABSORB or FINISH written in IDLE or DONE (R244). -/
  | SEQUENCE
  deriving DecidableEq, Repr

/-- The four words A, B, C, D taken together: the chaining state between blocks, the working state inside one
(00_scope.md R13, 10_state.md R21). -/
@[ext]
structure Chain where
  A : Word
  B : Word
  C : Word
  D : Word
  deriving DecidableEq, Repr

/-- The block's complete state, the tuple of 10_state.md R20, field by field. -/
@[ext]
structure Block where
  /-- chaining / working state (R21) -/
  A : Word
  B : Word
  C : Word
  D : Word
  /-- saved state (R22) -/
  AA : Word
  BB : Word
  CC : Word
  DD : Word
  /-- message words of the current block (R23) -/
  X : Vector Word 16
  /-- message buffer (R24) -/
  M : List Byte
  /-- message length in bits (R25) -/
  BITLEN : Word64
  /-- host data holding register (R26) -/
  DATA_IN : Word
  /-- sticky error code (R27) -/
  ERRCODE : ErrCode
  /-- sequencer state (R30) -/
  phase : Phase
  /-- round counter, 0..64 (R31) -/
  rnd : Fin 65
  /-- what the accumulate step does next (R32) -/
  run_next : RunNext
  deriving DecidableEq, Repr

/-- How a transaction names its place: by the BASE-relative byte offset (20_memory.md R60), or by the platform's byte
address (R72, assumption 7). -/
inductive BusAddr
  | offset (off : Nat)
  | absolute (addr : Nat)
  deriving DecidableEq, Repr

/-- One thing the host does in its turn (20_memory.md R60, 30_encoding.md R91, R92, 70_reset_and_hazards.md R270). The
size of an access is in bytes: the bus contract has only 4 (R60, R70). -/
inductive HostOp
  /-- MemRead. -/
  | read (a : BusAddr) (size : Nat)
  /-- MemWrite. -/
  | write (a : BusAddr) (size : Nat) (v : Word)
  /-- Drive the reset input `rst` to this level, sampled at a clock edge. -/
  | rst (level : Bool)
  /-- The polling loop WAIT: read STATUS, and again while bit 0 is 1. -/
  | wait
  deriving DecidableEq, Repr

/-- The two agents (00_scope.md R14). -/
inductive Agent
  | host
  | engine
  deriving DecidableEq, Repr

/-- The machine: the block, the reset input, and what the outside world does, as plain data (assumptions 1, 3, 5). -/
@[ext]
structure State where
  /-- The block's complete state (R20). -/
  blk : Block
  /-- The level of the reset input `rst`: true is high, the block is held in reset (R270). -/
  rst : Bool
  /-- MODEL: how many reset steps have been taken, which picks the next unspecified contents. -/
  draws : Nat
  /-- MODEL: the values MemRead has returned to the host, newest first. -/
  reads : List Word
  /-- MODEL: what the host is still to do, in issue order. -/
  host : List HostOp
  /-- MODEL: which agent moves next, as far as it is given; after that an enabled engine moves before the host. -/
  turns : List Agent
  deriving DecidableEq, Repr

/-- Why a step stops with a fault: never. The algorithm raises no error and the block takes no traps (60_exceptions.md
R240, R249); a host's protocol error is recorded in ERRCODE and the machine goes on (R245). Nobody raises a fault; that is
safe (assumption 12). -/
inductive Fault
  deriving DecidableEq, Repr

/-- Why a step has no meaning. -/
inductive Refusal
  /-- An instruction whose arm in `exec` gives it no meaning yet; raised by `exec` only. Safe. -/
  | notModelled (mnemonic : String)
  /-- A bus access of another size than 4 bytes, raised by the bus (20_memory.md R70, U8: "refuse"). Safe. -/
  | subWordAccess
  /-- A bus access at an offset that is not a multiple of 4, raised by the bus (R70, U8: "refuse"). Safe. -/
  | misalignedAccess
  /-- A bus access outside the 64-byte window, raised by the bus (R60, U8: "refuse"). Safe. -/
  | outsideWindow
  /-- An ABSORB whose byte count no command word encodes, raised by its meaning; the decoder never gives one
  (30_encoding.md R82, R92: "a host assembler refuses it"). Safe. -/
  | operandOutOfRange
  deriving DecidableEq, Repr

/-- The reset state of 10_state.md R43 and 70_reset_and_hazards.md R270, with the contents R43 leaves unspecified taken
from `u`. -/
def Block.atReset (u : Unspecified) : Block :=
  { A := u.A, B := u.B, C := u.C, D := u.D
    AA := u.AA, BB := u.BB, CC := u.CC, DD := u.DD
    X := u.X
    M := []
    BITLEN := 0
    DATA_IN := 0x00000000
    ERRCODE := .NONE
    phase := .IDLE
    rnd := u.rnd
    run_next := u.run_next }

/-- DESIGN CHOICE (assumption 2; unsafe for a claim that leans on it): the values `State.reset` names for the registers
R43 leaves unspecified, all zero ("A model may equally fix them to 0", U1). -/
def Unspecified.zeros : Unspecified :=
  { A := 0, B := 0, C := 0, D := 0, AA := 0, BB := 0, CC := 0, DD := 0
    X := Vector.replicate 16 0, rnd := 0, run_next := .TO_OPEN }

/-- The machine right after reset: the block in its reset state, `rst` released (R272 item 1), nothing read yet, and no
transaction placed. -/
def State.reset : State :=
  { blk := Block.atReset Unspecified.zeros
    rst := false
    draws := 0
    reads := []
    host := []
    turns := [] }

end Sys2Proof.Machine
end

