-- ==== Sys2Proof/Machine/Arith.lean ====
section
/-! DEFINITION. 32-bit word arithmetic and the mixing functions (43_word_arithmetic.md R170 to R180). -/

namespace Sys2Proof.Machine

/-- add32 (R170): modular addition. -/
def add32 (a b : Word) : Word := BitVec.ofNat 32 (a.toNat + b.toNat)

/-- add32 of any number of operands (R171): the sum mod 2^32. -/
def add32s (l : List Word) : Word := BitVec.ofNat 32 (l.map BitVec.toNat).sum

/-- rotl32 (R172): circular left rotation by s in 1..31. -/
def rotl32 (x : Word) (s : RotAmount) : Word := (x <<< s.val) ||| (x >>> (32 - s.val))

/-- NOT (R174). -/
def not32 (x : Word) : Word := x ^^^ 0xffffffff

/-- F0, rounds 0..15 (R175). -/
def F0 (B C D : Word) : Word := (B &&& C) ||| (not32 B &&& D)

/-- F1, rounds 16..31 (R176). -/
def F1 (B C D : Word) : Word := (D &&& B) ||| (not32 D &&& C)

/-- F2, rounds 32..47 (R177). -/
def F2 (B C D : Word) : Word := B ^^^ C ^^^ D

/-- F3, rounds 48..63 (R178). -/
def F3 (B C D : Word) : Word := C ^^^ (B ||| not32 D)

/-- Fq (R179): the mixing function of round group q. -/
def Fq (q : Fin 4) (B C D : Word) : Word :=
  match q with
  | 0 => F0 B C D
  | 1 => F1 B C D
  | 2 => F2 B C D
  | 3 => F3 B C D

end Sys2Proof.Machine
end

