-- ==== Sys2Proof/Machine/Flags.lean ====
section
/-! DEFINITION. The status bits (10_state.md R34, R37): STATUS is computed from the state and stored nowhere. The block has
no arithmetic flags (R34). -/

namespace Sys2Proof.Machine

/-- The 4-bit value of an error code (R27, 60_exceptions.md R241). -/
def ErrCode.bits : ErrCode → BitVec 4
  | .NONE => 0
  | .ILLEGAL => 1
  | .BUSY => 2
  | .SEQUENCE => 3

/-- STATUS.BUSY (R37). -/
def Block.flagBUSY (b : Block) : Bool := decide (b.phase = .RUN)

/-- STATUS.DONE (R37). -/
def Block.flagDONE (b : Block) : Bool := decide (b.phase = .DONE)

/-- STATUS.OPEN (R37). -/
def Block.flagOPEN (b : Block) : Bool := decide (b.phase = .OPEN)

/-- STATUS.ERR (R37). -/
def Block.flagERR (b : Block) : Bool := decide (b.ERRCODE.bits ≠ 0)

/-- STATUS.FILL (R37): len(M)[5:0]. -/
def Block.FILL (b : Block) : BitVec 6 := BitVec.ofNat 6 b.M.length

/-- STATUS (R37): FILL, ERRCODE, ERR, OPEN, DONE, BUSY from the top bit down, widened with zeros. -/
def Block.STATUS (b : Block) : Word :=
  (b.FILL ++ b.ERRCODE.bits ++ BitVec.ofBool b.flagERR ++ BitVec.ofBool b.flagOPEN ++
    BitVec.ofBool b.flagDONE ++ BitVec.ofBool b.flagBUSY).setWidth 32

end Sys2Proof.Machine
end

