-- ==== Sys2Proof/Machine/Operands.lean ====
section
/-! DEFINITION. Little-endian packing of bytes (00_scope.md R11) and the operand of ABSORB (30_encoding.md R89). -/

namespace Sys2Proof.Machine

/-- `s[i..j)` (R8): the slice of a byte sequence from index i up to but excluding j. -/
def slice (s : List Byte) (i j : Nat) : List Byte := (s.drop i).take (j - i)

/-- `zeros(n)` (R8): n bytes of 0x00. -/
def zeros (n : Nat) : List Byte := List.replicate n 0x00

/-- The little-endian number of a byte sequence: the sum of 2^(8k) * b_k (R11). -/
def leNat : List Byte → Nat
  | [] => 0
  | b :: bs => b.toNat + 2 ^ 8 * leNat bs

/-- le32 (R11), of four bytes. -/
def le32 (bs : List Byte) : Word := BitVec.ofNat 32 (leNat bs)

/-- le64 (R11), of eight bytes. -/
def le64 (bs : List Byte) : Word64 := BitVec.ofNat 64 (leNat bs)

/-- Byte k of a word: w[8k+7:8k]. -/
def byteOf {n : Nat} (w : BitVec n) (k : Nat) : Byte := w.extractLsb' (8 * k) 8

/-- bytes_le32 (R11). -/
def bytes_le32 (w : Word) : List Byte := [byteOf w 0, byteOf w 1, byteOf w 2, byteOf w 3]

/-- bytes_le64 (R11). -/
def bytes_le64 (L : Word64) : List Byte :=
  [byteOf L 0, byteOf L 1, byteOf L 2, byteOf L 3, byteOf L 4, byteOf L 5, byteOf L 6, byteOf L 7]

/-- The n message bytes an ABSORB takes from DATA_IN, least significant byte first (R89). -/
def msgBytes (dataIn : Word) (n : Nat) : List Byte := (List.range n).map (byteOf dataIn)

/-- The words X[0..15] of a 64-byte block: X[j] = le32(blk[4j..4j+4)) (20_memory.md R67, 44_round_loop.md R192). -/
def blockWords (blk : List Byte) : Vector Word 16 :=
  Vector.ofFn fun j : Fin 16 => le32 (slice blk (4 * j.val) (4 * j.val + 4))

end Sys2Proof.Machine
end

