-- ==== Sys2Proof/Machine/Padding.lean ====
section
/-! DEFINITION. Padding and length encoding (41_padding.md): the padding function of a whole message (R130 to R134) and
the final blocks the hardware builds from M and BITLEN (R136, R137). -/

namespace Sys2Proof.Machine

/-- L (R131): the message's bit length, reduced mod 2^64. -/
def lengthField (m : List Byte) : Word64 := BitVec.ofNat 64 (8 * m.length)

/-- z (R130): (55 - n) mod 64. -/
def padZeros (n : Nat) : Nat := ((55 - (n : Int)) % 64).toNat

/-- pad(m) (R130). -/
def pad (m : List Byte) : List Byte :=
  m ++ [0x80] ++ zeros (padZeros m.length) ++ bytes_le64 (lengthField m)

/-- nblocks(n) (R132). -/
def nblocks (n : Nat) : Nat := (n + 8) / 64 + 1

/-- blocks(m) (R134): the 64-byte blocks of the padded message, in order. -/
def blocks (m : List Byte) : List (List Byte) :=
  (List.range (nblocks m.length)).map fun k => slice (pad m) (64 * k) (64 * k + 64)

/-- final_block_single (R136), for a fill of at most 55. -/
def finalBlockSingle (M : List Byte) (BITLEN : Word64) : List Byte :=
  M ++ [0x80] ++ zeros (55 - M.length) ++ bytes_le64 BITLEN

/-- final_block_first (R137), for a fill of 56 to 63. -/
def finalBlockFirst (M : List Byte) : List Byte := M ++ [0x80] ++ zeros (63 - M.length)

/-- final_block_second (R137). -/
def finalBlockSecond (BITLEN : Word64) : List Byte := zeros 56 ++ bytes_le64 BITLEN

end Sys2Proof.Machine
end

