-- ==== Sys2Proof/Machine/Rom.lean ====
section
/-! DEFINITION. The constant ROMs and the message-word schedule (42_constant_rom.md R150 to R157). The values of IV and S
and the radian reading behind K are the spec's own general knowledge (93_implementation_defined.md G1 to G4;
assumption 14). -/

namespace Sys2Proof.Machine

/-- IV[0..3] (R150): the initial chaining state. -/
def IV : Chain := { A := 0x67452301, B := 0xefcdab89, C := 0x98badcfe, D := 0x10325476 }

/-- q(i) = i div 16 (R157): the round group. -/
def q (i : Fin 64) : Fin 4 := ⟨i.val / 16, by omega⟩

/-- K[0..15] (R152). -/
def K0 : Vector Word 16 := #v[
  0xd76aa478, 0xe8c7b756, 0x242070db, 0xc1bdceee,
  0xf57c0faf, 0x4787c62a, 0xa8304613, 0xfd469501,
  0x698098d8, 0x8b44f7af, 0xffff5bb1, 0x895cd7be,
  0x6b901122, 0xfd987193, 0xa679438e, 0x49b40821]

/-- K[16..31] (R152). -/
def K1 : Vector Word 16 := #v[
  0xf61e2562, 0xc040b340, 0x265e5a51, 0xe9b6c7aa,
  0xd62f105d, 0x02441453, 0xd8a1e681, 0xe7d3fbc8,
  0x21e1cde6, 0xc33707d6, 0xf4d50d87, 0x455a14ed,
  0xa9e3e905, 0xfcefa3f8, 0x676f02d9, 0x8d2a4c8a]

/-- K[32..47] (R152). -/
def K2 : Vector Word 16 := #v[
  0xfffa3942, 0x8771f681, 0x6d9d6122, 0xfde5380c,
  0xa4beea44, 0x4bdecfa9, 0xf6bb4b60, 0xbebfbc70,
  0x289b7ec6, 0xeaa127fa, 0xd4ef3085, 0x04881d05,
  0xd9d4d039, 0xe6db99e5, 0x1fa27cf8, 0xc4ac5665]

/-- K[48..63] (R152). -/
def K3 : Vector Word 16 := #v[
  0xf4292244, 0x432aff97, 0xab9423a7, 0xfc93a039,
  0x655b59c3, 0x8f0ccc92, 0xffeff47d, 0x85845dd1,
  0x6fa87e4f, 0xfe2ce6e0, 0xa3014314, 0x4e0811a1,
  0xf7537e82, 0xbd3af235, 0x2ad7d2bb, 0xeb86d391]

/-- The K ROM (R152): 64 words, read by the round index. -/
def K (i : Fin 64) : Word :=
  let j : Fin 16 := ⟨i.val % 16, by omega⟩
  match q i with
  | 0 => K0.get j
  | 1 => K1.get j
  | 2 => K2.get j
  | 3 => K3.get j

/-- SHIFTS (R153): four rotation amounts for each round group. -/
def SHIFTS (q : Fin 4) : Vector RotAmount 4 :=
  match q with
  | 0 => #v[⟨7, by decide⟩, ⟨12, by decide⟩, ⟨17, by decide⟩, ⟨22, by decide⟩]
  | 1 => #v[⟨5, by decide⟩, ⟨9, by decide⟩, ⟨14, by decide⟩, ⟨20, by decide⟩]
  | 2 => #v[⟨4, by decide⟩, ⟨11, by decide⟩, ⟨16, by decide⟩, ⟨23, by decide⟩]
  | 3 => #v[⟨6, by decide⟩, ⟨10, by decide⟩, ⟨15, by decide⟩, ⟨21, by decide⟩]

/-- The S ROM (R153): S[i] = SHIFTS[i div 16][i mod 4]. -/
def S (i : Fin 64) : RotAmount := (SHIFTS (q i)).get ⟨i.val % 4, by omega⟩

/-- The message-word index g(i) (R155). -/
def g (i : Fin 64) : Fin 16 :=
  match q i with
  | 0 => ⟨i.val % 16, by omega⟩
  | 1 => ⟨(5 * i.val + 1) % 16, by omega⟩
  | 2 => ⟨(3 * i.val + 5) % 16, by omega⟩
  | 3 => ⟨(7 * i.val) % 16, by omega⟩

end Sys2Proof.Machine
end

