-- ==== Sys2Proof/Machine/Ops.lean ====
section
/-! DEFINITION. The shared operations over the state: named updates, taking an error (60_exceptions.md R245) and the
clearing beside it (R248), block start (44_round_loop.md R192), reset (70_reset_and_hazards.md R270), the acceptance of a
command (40_host_commands.md R100) and the registers as the host reads them (10_state.md R35 to R41). -/

namespace Sys2Proof.Machine

/-- Replace the block. -/
def State.setBlk (s : State) (b : Block) : State := { s with blk := b }

/-- Drive the reset input. -/
def State.setRst (s : State) (level : Bool) : State := { s with rst := level }

/-- Hand a value read to the host. -/
def State.pushRead (s : State) (v : Word) : State := { s with reads := v :: s.reads }

/-- Replace what the host is still to do. -/
def State.setHost (s : State) (ops : List HostOp) : State := { s with host := ops }

/-- Replace the turns given. -/
def State.setTurns (s : State) (ts : List Agent) : State := { s with turns := ts }

/-- The words A..D together. -/
def Block.chain (b : Block) : Chain := { A := b.A, B := b.B, C := b.C, D := b.D }

/-- The saved words AA..DD together. -/
def Block.saved (b : Block) : Chain := { A := b.AA, B := b.BB, C := b.CC, D := b.DD }

/-- Write A..D. -/
def Block.setChain (b : Block) (c : Chain) : Block := { b with A := c.A, B := c.B, C := c.C, D := c.D }

/-- Component-wise add32 of two quadruples (44_round_loop.md R194). -/
def Chain.add (c d : Chain) : Chain :=
  { A := add32 c.A d.A, B := add32 c.B d.B, C := add32 c.C d.C, D := add32 c.D d.D }

/-- `raise Error(c)` (60_exceptions.md R245): record c if no error is recorded; nothing else changes (R247). This is the
whole of taking an error: the block takes no traps (R249). -/
def Block.raiseError (b : Block) (c : ErrCode) : Block :=
  if b.ERRCODE = .NONE then { b with ERRCODE := c } else b

/-- The clearing of a recorded error (60_exceptions.md R248), done by INIT and by reset only. -/
def Block.clearError (b : Block) : Block := { b with ERRCODE := .NONE }

/-- BLOCK_START(blk, nxt) (44_round_loop.md R192). -/
def Block.blockStart (b : Block) (blk : List Byte) (nxt : RunNext) : Block :=
  { b with
    X := blockWords blk
    AA := b.A, BB := b.B, CC := b.C, DD := b.D
    rnd := 0
    run_next := nxt
    phase := .RUN }

/-- A reset step: `rst` is sampled high (70_reset_and_hazards.md R270). What R43 leaves unspecified is taken from the free
value, a fresh one at each step (assumption 3). -/
def State.resetStep (s : State) : State :=
  { s with blk := Block.atReset (Config.unspecified s.draws), rst := true, draws := s.draws + 1 }

/-- Record an error in the block of a machine. -/
def State.raiseError (s : State) (c : ErrCode) : State := s.setBlk (s.blk.raiseError c)

/-- The acceptance of a legal command (40_host_commands.md R100): BUSY in phase RUN (60_exceptions.md R243); for a command
that needs an open message, SEQUENCE outside OPEN (R244); else its effect on the block, in the same step. -/
def command (needsOpen : Bool) (effect : Block → Block) (s : State) : Host.Outcome State Fault Refusal :=
  if s.blk.phase = .RUN then .next (s.raiseError .BUSY)
  else if needsOpen = true ∧ s.blk.phase ≠ .OPEN then .next (s.raiseError .SEQUENCE)
  else .next (s.setBlk (effect s.blk))

/-- DIGESTn (10_state.md R40, 40_host_commands.md R106): the state word in DONE, 0 in every other phase. -/
def Block.DIGEST (b : Block) (w : Word) : Word := if b.phase = .DONE then w else 0x00000000

/-- The value of the register at a word offset of the window (20_memory.md R62). CTRL and the reserved offsets read 0
(R109, R110). -/
def Block.readRegister (b : Block) (off : Nat) : Word :=
  match off with
  | 0x00 => 0x00000000
  | 0x04 => b.STATUS
  | 0x08 => b.DATA_IN
  | 0x10 => b.BITLEN.extractLsb' 0 32
  | 0x14 => b.BITLEN.extractLsb' 32 32
  | 0x20 => b.DIGEST b.A
  | 0x24 => b.DIGEST b.B
  | 0x28 => b.DIGEST b.C
  | 0x2C => b.DIGEST b.D
  | _ => 0x00000000

end Sys2Proof.Machine
end

