-- ==== Sys2Proof/Machine/Commands.lean ====
section
/-! DEFINITION. The meanings of the three commands (40_host_commands.md R101 to R103). Each is the whole CTRL write of that
command after its word has decoded: acceptance, errors and effect (R100, R111). -/

namespace Sys2Proof.Machine

/-- What INIT does to the block (R101). -/
def Block.openMessage (b : Block) : Block :=
  { (b.setChain IV).clearError with BITLEN := 0, M := [], phase := .OPEN }

/-- What ABSORB n does to the block (R102): M and BITLEN grow; when M then holds 64 bytes, the first 64 become a block. -/
def Block.absorb (n : Nat) (b : Block) : Block :=
  let grown := { b with
    M := b.M ++ msgBytes b.DATA_IN n
    BITLEN := b.BITLEN + BitVec.ofNat 64 (8 * n) }
  if 64 ≤ grown.M.length then
    { grown with M := grown.M.drop 64 }.blockStart (grown.M.take 64) .TO_OPEN
  else grown

/-- What FINISH does to the block (R103): one padding block for a fill of at most 55, else the first of two. -/
def Block.finish (b : Block) : Block :=
  if b.M.length ≤ 55 then
    { b with M := [] }.blockStart (finalBlockSingle b.M b.BITLEN) .TO_DONE
  else
    { b with M := [] }.blockStart (finalBlockFirst b.M) .TO_PAD2

/-- INIT (R101). -/
def execInit (s : State) : Host.Outcome State Fault Refusal := command false Block.openMessage s

/-- ABSORB n (R102). A byte count outside 1..4 is refused: no word encodes it (30_encoding.md R92, assumption 9). -/
def execAbsorb (n : Nat) (s : State) : Host.Outcome State Fault Refusal :=
  if (Instr.absorb n).wf = true then command true (Block.absorb n) s else .refused .operandOutOfRange

/-- FINISH (R103). -/
def execFinish (s : State) : Host.Outcome State Fault Refusal := command true Block.finish s

end Sys2Proof.Machine
end

