-- ==== Sys2Proof/Machine/Dispatch.lean ====
section
/-! DEFINITION. One arm per command: the case of 40_host_commands.md R100. -/

namespace Sys2Proof.Machine

def exec (i : Instr) (s : State) : Host.Outcome State Fault Refusal :=
  match i with
  | .init => Sys2Proof.Machine.execInit s
  | .absorb n => Sys2Proof.Machine.execAbsorb n s
  | .finish => Sys2Proof.Machine.execFinish s

end Sys2Proof.Machine
end

