-- ==== Sys2Proof/Machine/Bus.lean ====
section
/-! DEFINITION. The host bus (20_memory.md): the window and the accesses it admits (R60, R70, R72), reads (R62) and writes
(R63), and both while `rst` is high (70_reset_and_hazards.md R270). -/

namespace Sys2Proof.Machine

/-- The offset a platform address has in the window (20_memory.md R72); none outside BASE .. BASE + 0x3F. -/
def windowOffset (addr : Nat) : Option Nat :=
  if Config.BASE ≤ addr ∧ addr ≤ Config.BASE + 0x3F then some (addr - Config.BASE) else none

/-- The offset an access names, where the access is inside the bus contract: 4 bytes, at a multiple of 4, in the window
(20_memory.md R60, R70); else the reason it is refused (93_implementation_defined.md U8, assumption 8). -/
def busOffset (a : BusAddr) (size : Nat) : Except Refusal Nat :=
  if size ≠ 4 then .error .subWordAccess
  else
    match (match a with | .offset off => some off | .absolute addr => windowOffset addr) with
    | none => .error .outsideWindow
    | some off =>
      if off % 4 ≠ 0 then .error .misalignedAccess
      else if 0x3C < off then .error .outsideWindow
      else .ok off

/-- What MemRead(off, 4) returns (20_memory.md R62); 0 for every offset while `rst` is high (R270). -/
def State.memRead (s : State) (off : Nat) : Word := if s.rst then 0x00000000 else s.blk.readRegister off

/-- A write to CTRL (40_host_commands.md R100): decode first, so that ILLEGAL goes before every other error
(60_exceptions.md R242, R246); a word that decodes is performed. -/
def ctrlWrite (v : Word) (s : State) : Host.Outcome State Fault Refusal :=
  match decode v with
  | .ok i => exec i s
  | .error _ => .next (s.raiseError .ILLEGAL)

/-- MemWrite(off, 4, v) (20_memory.md R63): CTRL performs a command, DATA_IN stores the word in every phase
(40_host_commands.md R104), every other offset ignores it (R110); no effect while `rst` is high (R270). -/
def memWrite (off : Nat) (v : Word) (s : State) : Host.Outcome State Fault Refusal :=
  if s.rst then .next s
  else
    match off with
    | 0x00 => ctrlWrite v s
    | 0x08 => .next (s.setBlk { s.blk with DATA_IN := v })
    | _ => .next s

end Sys2Proof.Machine
end

