-- ==== Sys2Proof/Machine/Engine.lean ====
section
/-! DEFINITION. The engine (44_round_loop.md): one round (R193), the accumulation (R194), and the two engine steps of phase
RUN (R196, R197). -/

namespace Sys2Proof.Machine

/-- ROUND(i) on the working state c and the words X (R193). -/
def roundFn (X : Vector Word 16) (c : Chain) (i : Fin 64) : Chain :=
  let f := Fq (q i) c.B c.C c.D
  let t := add32s [f, c.A, K i, X.get (g i)]
  { A := c.D
    B := add32 c.B (rotl32 t (S i))
    C := c.B
    D := c.C }

/-- Engine step ROUND (R196). -/
def Block.roundStep (b : Block) (i : Fin 64) : Block :=
  { b.setChain (roundFn b.X b.chain i) with rnd := i.succ }

/-- Engine step ACCUMULATE (R197): the saved state is added back; run_next says what follows, on the A..D just
written. -/
def Block.accumulateStep (b : Block) : Block :=
  let summed := b.setChain (b.chain.add b.saved)
  match b.run_next with
  | .TO_OPEN => { summed with phase := .OPEN }
  | .TO_PAD2 => summed.blockStart (finalBlockSecond b.BITLEN) .TO_DONE
  | .TO_DONE => { summed with phase := .DONE }

/-- The engine has an enabled step exactly in phase RUN (00_scope.md R14, R198). -/
def Block.engineEnabled (b : Block) : Bool := decide (b.phase = .RUN)

/-- The engine's step in phase RUN: round rnd for rnd = 0..63, then the accumulate step. -/
def Block.engineStep (b : Block) : Block :=
  if h : b.rnd.val < 64 then b.roundStep ⟨b.rnd.val, h⟩ else b.accumulateStep

end Sys2Proof.Machine
end

