-- ==== Sys2Proof/Machine/Turns.lean ====
section
/-! DEFINITION. The turns of the two agents (00_scope.md R14): the host performs the next thing it has to do, the engine its
next step, and which of them moves is read from State (assumption 1). -/

namespace Sys2Proof.Machine

/-- The host's turn on one operation, which has been taken off the host's list. -/
def hostOp (op : HostOp) (s : State) : Host.Outcome State Fault Refusal :=
  match op with
  | .read a size =>
    match busOffset a size with
    | .ok off => .next (s.pushRead (s.memRead off))
    | .error r => .refused r
  | .write a size v =>
    match busOffset a size with
    | .ok off => memWrite off v s
    | .error r => .refused r
  | .rst true => .next s.resetStep
  | .rst false => .next (s.setRst false)
  | .wait =>
    let polled := s.pushRead (s.memRead 0x04)
    .next (if (s.memRead 0x04).getLsbD 0 then polled.setHost (.wait :: s.host) else polled)

/-- The host's turn: the next thing it has to do; with nothing to do the block stays as it is (R281). -/
def hostTurn (s : State) : Host.Outcome State Fault Refusal :=
  match s.host with
  | [] => .next s
  | op :: ops => hostOp op (s.setHost ops)

/-- The engine has an enabled step: phase RUN, and `rst` low (R14, R270). -/
def State.engineEnabled (s : State) : Bool := !s.rst && s.blk.engineEnabled

/-- The engine's turn; a turn in which it has no enabled step passes without effect. -/
def engineTurn (s : State) : State := if s.engineEnabled then s.setBlk s.blk.engineStep else s

/-- The turn of an agent. -/
def turnOf (a : Agent) (s : State) : Host.Outcome State Fault Refusal :=
  match a with
  | .host => hostTurn s
  | .engine => .next (engineTurn s)

/-- The agent that moves next: the first of the turns given; when none is given, the engine if it has an enabled step
(the engine is weakly fair, 70_reset_and_hazards.md R280), else the host. -/
def State.nextAgent (s : State) : Agent :=
  match s.turns with
  | a :: _ => a
  | [] => if s.engineEnabled then .engine else .host

/-- One step of the machine: the next agent moves. -/
def machineStep (s : State) : Host.Outcome State Fault Refusal := turnOf s.nextAgent (s.setTurns s.turns.tail)

end Sys2Proof.Machine
end

