-- ==== Sys2Proof/Machine/Step.lean ====
section
/-! DEFINITION. The machine's step, and the placing of one command where the next step takes it from. -/

namespace Sys2Proof.Machine

/-- One step: the next agent moves (00_scope.md R14). -/
def step (s : State) : Host.Outcome State Fault Refusal := machineStep s

/-- The machine with a command word handed to the host as its next transaction, a write to CTRL, and the next turn given
to the host, so that the very next step performs it. `rst` is released, since a write while `rst` is high has no effect
(70_reset_and_hazards.md R270). -/
def State.withFetchWord (s : State) (nbits w : Nat) : State :=
  { s with
    rst := false
    host := .write (.offset 0x00) 4 (BitVec.ofNat 32 (w % 2 ^ nbits)) :: s.host
    turns := .host :: s.turns }

end Sys2Proof.Machine
end

