-- ==== Sys2Proof/Machine/HostProgram.lean ====
section
/-! DEFINITION. Host programs (30_encoding.md R91, R92): the named registers and the pseudo-instructions with their
expansions into the host's operations. -/

namespace Sys2Proof.Machine

/-- The registers a host program names (R91). -/
inductive Reg
  | CTRL
  | STATUS
  | DATA_IN
  | LEN_LO
  | LEN_HI
  | DIGEST0
  | DIGEST1
  | DIGEST2
  | DIGEST3
  /-- A raw offset, `@0xNN`. -/
  | raw (off : Nat)
  deriving DecidableEq, Repr

/-- off(reg) (10_state.md R35). -/
def Reg.off : Reg → Nat
  | .CTRL => 0x00
  | .STATUS => 0x04
  | .DATA_IN => 0x08
  | .LEN_LO => 0x10
  | .LEN_HI => 0x14
  | .DIGEST0 => 0x20
  | .DIGEST1 => 0x24
  | .DIGEST2 => 0x28
  | .DIGEST3 => 0x2C
  | .raw off => off

/-- `RD reg` (R91). -/
def RD (r : Reg) : HostOp := .read (.offset r.off) 4

/-- `WR reg, v` (R91). -/
def WR (r : Reg) (v : Word) : HostOp := .write (.offset r.off) 4 v

/-- One line of a host program (R91, R92). -/
inductive Line
  | rd (r : Reg)
  | wr (r : Reg) (v : Word)
  | init
  | finish
  | absorb (n : Nat)
  | absorbData (n : Nat) (v : Word)
  | wait
  | readDigest
  deriving DecidableEq, Repr

/-- The expansion of a line (R92); none for an ABSORB n with n outside 1..4, which a host assembler refuses. -/
def Line.expand : Line → Option (List HostOp)
  | .rd r => some [RD r]
  | .wr r v => some [WR r v]
  | .init => some [WR .CTRL (encode .init)]
  | .finish => some [WR .CTRL (encode .finish)]
  | .absorb n => if (Instr.absorb n).wf then some [WR .CTRL (encode (.absorb n))] else none
  | .absorbData n v =>
    if (Instr.absorb n).wf then some [WR .DATA_IN v, WR .CTRL (encode (.absorb n))] else none
  | .wait => some [.wait]
  | .readDigest => some [RD .DIGEST0, RD .DIGEST1, RD .DIGEST2, RD .DIGEST3]

/-- The expansion of a host program, line by line. -/
def expandLines : List Line → Option (List HostOp)
  | [] => some []
  | l :: ls =>
    match l.expand, expandLines ls with
    | some ops, some rest => some (ops ++ rest)
    | _, _ => none

end Sys2Proof.Machine
end

