-- ==== Sys2Proof/Machine/Md5.lean ====
section
/-! DEFINITION. The algorithm as pure functions: the compression function (44_round_loop.md R195), the digest assembly
(45_digest.md R220) and MD5 of a byte sequence (R223). No step calls these; statements compare the machine with them. -/

namespace Sys2Proof.Machine

/-- The 64 rounds on the words X (R195). -/
def rounds (X : Vector Word 16) (c : Chain) : Chain := (List.finRange 64).foldl (roundFn X) c

/-- compress (R195). -/
def compress (c : Chain) (blk : List Byte) : Chain := (rounds (blockWords blk) c).add c

/-- The chaining state after the blocks given, from IV (R190, R191, R195). -/
def chainAfter (blks : List (List Byte)) : Chain := blks.foldl compress IV

/-- Digest assembly (R220). -/
def digestBytes (c : Chain) : List Byte := bytes_le32 c.A ++ bytes_le32 c.B ++ bytes_le32 c.C ++ bytes_le32 c.D

/-- The hex digit of a nibble, lowercase (R222). -/
def hexDigit (n : BitVec 4) : Char := ['0', '1', '2', '3', '4', '5', '6', '7', '8', '9', 'a', 'b', 'c', 'd', 'e', 'f'].getD n.toNat '0'

/-- The hex rendering (R222): two digits a byte, high nibble first, bytes in order. It is outside the block (00_scope.md
R5); test vectors are read through it. -/
def hexDigest (bs : List Byte) : List Char :=
  bs.flatMap fun b => [hexDigit (b.extractLsb' 4 4), hexDigit (b.extractLsb' 0 4)]

/-- MD5(m) (R223). -/
def MD5 (m : List Byte) : List Byte := digestBytes (chainAfter (blocks m))

end Sys2Proof.Machine
end

