-- ==== Sys2Proof/Safety.lean ====
section
/-! DEFINITION. The terms statements are made in: the invariants of a safe run (10_state.md R42), what the next step is
about, which states a run reaches, which message a run has delivered (41_padding.md R135, 45_digest.md R224), when two
states look alike to the host (10_state.md R43, R45), and the program that hashes one message (30_encoding.md R92). -/

namespace Sys2Proof.Machine

/-- The five invariants of 10_state.md R42 (item 5 is how `engineEnabled` is defined), and the two facts about phase RUN
and BITLEN that make them inductive: a RUN begun by FINISH holds no message bytes, one begun by ABSORB holds the excess,
and BITLEN counts whole bytes (R25). -/
structure Block.Inv (b : Block) : Prop where
  fill_le : b.phase ≠ .RUN → b.M.length ≤ 63
  run_fill_le : b.phase = .RUN → b.M.length ≤ 3
  open_fill : b.phase = .OPEN → b.M.length = b.BITLEN.toNat / 8 % 64
  done_empty : b.phase = .DONE → b.M = []
  idle_empty : b.phase = .IDLE → b.M = [] ∧ b.BITLEN = 0
  run_fill : b.phase = .RUN → b.run_next = .TO_OPEN → b.M.length = b.BITLEN.toNat / 8 % 64
  run_empty : b.phase = .RUN → b.run_next ≠ .TO_OPEN → b.M = []
  whole_bytes : b.BITLEN.toNat % 8 = 0

/-- What the host can see of the reset state (10_state.md R43), the values R270 gives. -/
structure Block.InReset (b : Block) : Prop where
  phase : b.phase = .IDLE
  errcode : b.ERRCODE = .NONE
  m : b.M = []
  bitlen : b.BITLEN = 0
  dataIn : b.DATA_IN = 0x00000000

/-- The machine's invariant: the block's, and the block held in the reset state while `rst` is high (70_reset_and_hazards.md
R270). -/
structure State.Inv (s : State) : Prop where
  block : s.blk.Inv
  held : s.rst = true → s.blk.InReset

/-- k engine steps. -/
def Block.engineSteps : Nat → Block → Block
  | 0, b => b
  | k + 1, b => Block.engineSteps k b.engineStep

/-- The write the next step performs, its offset and word, if the host moves and writes inside the bus contract with `rst`
low (20_memory.md R63). -/
def State.nextWrite (s : State) : Option (Nat × Word) :=
  match s.nextAgent, s.rst, s.host with
  | .host, false, .write a size v :: _ =>
    match busOffset a size with
    | .ok off => some (off, v)
    | .error _ => none
  | _, _, _ => none

/-- The word the next step writes to CTRL. -/
def State.nextCtrlWord (s : State) : Option Word :=
  match s.nextWrite with
  | some (0x00, v) => some v
  | _ => none

/-- The phases a command is performed in (40_host_commands.md R101 to R103). -/
def acceptedIn : Instr → Phase → Bool
  | .init, p => decide (p ≠ .RUN)
  | .absorb _, p => decide (p = .OPEN)
  | .finish, p => decide (p = .OPEN)

/-- The command the next step performs; none where it performs none or rejects one. -/
def State.nextAccepted (s : State) : Option Instr :=
  match s.nextCtrlWord with
  | some v =>
    match decode v with
    | .ok i => if acceptedIn i s.blk.phase then some i else none
    | .error _ => none
  | none => none

/-- The next step is a reset step (70_reset_and_hazards.md R270). -/
def State.nextIsReset (s : State) : Bool :=
  match s.nextAgent, s.host with
  | .host, .rst true :: _ => true
  | _, _ => false

/-- The next step is a step of the engine (44_round_loop.md R196, R197). -/
def State.nextIsEngine (s : State) : Bool := decide (s.nextAgent = .engine) && s.engineEnabled

/-- The states a run from reset reaches, whatever the host does and however the turns fall. -/
inductive Reachable : State → Prop
  | reset (ops : List HostOp) (ts : List Agent) : Reachable ((State.reset.setHost ops).setTurns ts)
  | step {s t : State} : Reachable s → Machine.step s = .next t → Reachable t

/-- `Delivered s m fin`: s is reached by a run in which the last accepted INIT was followed by accepted ABSORBs whose
message bytes are m, in order, and by an accepted FINISH iff `fin`; no reset since that INIT. Anything else may have
happened in between: reads, DATA_IN writes, rejected commands, engine steps (45_digest.md R224, R225). -/
inductive Delivered : State → List Byte → Bool → Prop
  | opened {s t : State} : Reachable s → s.nextAccepted = some .init → Machine.step s = .next t → Delivered t [] false
  | absorbed {s t : State} {m : List Byte} {n : Nat} : Delivered s m false → s.nextAccepted = some (.absorb n) →
      Machine.step s = .next t → Delivered t (m ++ msgBytes s.blk.DATA_IN n) false
  | finished {s t : State} {m : List Byte} : Delivered s m false → s.nextAccepted = some .finish →
      Machine.step s = .next t → Delivered t m true
  | other {s t : State} {m : List Byte} {fin : Bool} : Delivered s m fin → s.nextAccepted = none →
      s.nextIsReset = false → Machine.step s = .next t → Delivered t m fin

/-- The complete 64-byte groups of a message, in order (41_padding.md R135). -/
def fullBlocks (m : List Byte) : List (List Byte) :=
  (List.range (m.length / 64)).map fun k => slice m (64 * k) (64 * k + 64)

/-- What the block holds of an open message m in phase OPEN: the bit count and the buffer of 41_padding.md R135, and the
chaining state after the message's complete groups (44_round_loop.md R191). -/
structure Block.Holds (b : Block) (m : List Byte) : Prop where
  phase : b.phase = .OPEN
  bitlen : b.BITLEN = lengthField m
  buffer : b.M = m.drop (64 * (m.length / 64))
  chain : b.chain = chainAfter (fullBlocks m)

/-- The working state a run has reached: the rounds below rnd, on the saved state (44_round_loop.md R193, R195). -/
def Block.roundsDone (b : Block) : Chain := ((List.finRange 64).take b.rnd.val).foldl (roundFn b.X) b.saved

/-- The chaining state the block being compressed will end with (44_round_loop.md R194, R195). -/
def Block.willBe (b : Block) : Chain := (rounds b.X b.saved).add b.saved

/-- The block is on its way with message m, all of it delivered and FINISH accepted iff `fin`: in OPEN it holds m so far, in
DONE the digest, and in RUN A..D are the rounds done so far and what the run will end with is what m calls for
(41_padding.md R135, R138, 44_round_loop.md R195, 45_digest.md R224). -/
structure Block.Tracks (b : Block) (m : List Byte) (fin : Bool) : Prop where
  phase : b.phase ≠ .IDLE
  bitlen : b.BITLEN = lengthField m
  opened : b.phase = .OPEN → fin = false ∧ b.Holds m
  done : b.phase = .DONE → fin = true ∧ b.M = [] ∧ b.chain = chainAfter (blocks m)
  working : b.phase = .RUN → b.chain = b.roundsDone
  run_next : b.phase = .RUN → (b.run_next = .TO_OPEN ↔ fin = false)
  buffer : b.phase = .RUN → b.M = if fin then [] else m.drop (64 * (m.length / 64))
  to_open : b.phase = .RUN → b.run_next = .TO_OPEN → b.willBe = chainAfter (fullBlocks m)
  to_done : b.phase = .RUN → b.run_next = .TO_DONE → b.willBe = chainAfter (blocks m)
  to_pad2 : b.phase = .RUN → b.run_next = .TO_PAD2 →
    compress b.willBe (finalBlockSecond b.BITLEN) = chainAfter (blocks m)

/-- The machine is out of reset and its block on its way with message m. -/
structure State.Tracks (s : State) (m : List Byte) (fin : Bool) : Prop where
  rst : s.rst = false
  blk : s.blk.Tracks m fin

/-- Two blocks the host cannot tell apart: the control state is the same, and the datapath is where something may still
read it: A..D once a message is open, the rest in phase RUN (10_state.md R43, R45). -/
structure Block.Alike (b c : Block) : Prop where
  phase : b.phase = c.phase
  m : b.M = c.M
  bitlen : b.BITLEN = c.BITLEN
  dataIn : b.DATA_IN = c.DATA_IN
  errcode : b.ERRCODE = c.ERRCODE
  chain : b.phase ≠ .IDLE → b.chain = c.chain
  saved : b.phase = .RUN → b.saved = c.saved
  words : b.phase = .RUN → b.X = c.X
  rnd : b.phase = .RUN → b.rnd = c.rnd
  run_next : b.phase = .RUN → b.run_next = c.run_next

/-- Two machines the host cannot tell apart, with the same things still to come. -/
structure State.Alike (s t : State) : Prop where
  blk : s.blk.Alike t.blk
  rst : s.rst = t.rst
  draws : s.draws = t.draws
  reads : s.reads = t.reads
  host : s.host = t.host
  turns : s.turns = t.turns

/-- Outcomes the host cannot tell apart. -/
def AlikeOutcomes : Host.Outcome State Fault Refusal → Host.Outcome State Fault Refusal → Prop
  | .next s, .next t => s.Alike t
  | .refused r, .refused r' => r = r'
  | _, _ => False

/-- The values the host has read, where the run has not stopped. -/
def readsOf : Host.Outcome State Fault Refusal → Option (List Word)
  | .next s => some s.reads
  | _ => none

/-- k steps of the machine. -/
def run (k : Nat) (s : State) : Host.Outcome State Fault Refusal := Sys2Proof.core.run k s

/-- Every operation the host still has to do is inside the bus contract and none touches `rst`. -/
def HostOp.plain : HostOp → Bool
  | .read a size => match busOffset a size with | .ok _ => true | .error _ => false
  | .write a size _ => match busOffset a size with | .ok _ => true | .error _ => false
  | .rst _ => false
  | .wait => true

/-- One chunk of a message: the word for DATA_IN and the byte count of its ABSORB (R102). -/
structure Chunk where
  n : Nat
  v : Word
  deriving DecidableEq, Repr

/-- The message a list of chunks delivers (30_encoding.md R89). -/
def messageOf (cs : List Chunk) : List Byte := cs.flatMap fun c => msgBytes c.v c.n

/-- The host program that hashes one message, polling as 70_reset_and_hazards.md R273 asks: INIT; for each chunk ABSORB n, v
and WAIT; FINISH; WAIT; READDIGEST (30_encoding.md R92). -/
def hashProgram (cs : List Chunk) : List Line :=
  [.init] ++ cs.flatMap (fun c => [.absorbData c.n c.v, .wait]) ++ [.finish, .wait, .readDigest]

/-- The digest bytes a host makes of the four DIGEST words (45_digest.md R221): each least significant byte first. -/
def digestOfWords (d0 d1 d2 d3 : Word) : List Byte :=
  bytes_le32 d0 ++ bytes_le32 d1 ++ bytes_le32 d2 ++ bytes_le32 d3

end Sys2Proof.Machine
end

