-- ==== Sys2Proof/Certificates/Slice0/Obligations.lean ====
section
/-! DEFINITION. The statements about the MD5 compression engine, for the provers. Each docstring names the rule of spec/ it
formalises. -/

open Sys2Proof Sys2Proof.Machine

/-! ### Reset (10_state.md R43, 70_reset_and_hazards.md R270) -/

/-- R43, R270: whatever the unspecified contents are, the reset state has phase IDLE, no error, an empty buffer,
BITLEN 0 and DATA_IN 0, and every register of the window reads 0; `State.reset` is such a state, with `rst` released.
(Two things here are the model's choice: that `rst` is low in `State.reset`, assumption 4, and that its unspecified
contents are zeros, assumption 2, which is not stated.) -/
def Obligations.ResetLeavesControlStateClear : Prop :=
  (∃ u, State.reset.blk = Block.atReset u) ∧ State.reset.rst = false ∧
    ∀ u : Unspecified, (Block.atReset u).InReset ∧ ∀ off, (Block.atReset u).readRegister off = 0x00000000

/-- R270: reset is a step the host may take in any state, RUN included; after it the block is in the reset state and
every offset reads 0. (That `rst` then stays high until the host releases it by a step of its own is the model's
reading, assumption 4.) -/
def Obligations.ResetStepFromEveryState : Prop :=
  ∀ (s : State) (ops : List HostOp), s.nextAgent = .host → s.host = .rst true :: ops →
    ∃ t, step s = .next t ∧ t.blk.InReset ∧ t.rst = true ∧ t.host = ops ∧ t.reads = s.reads ∧
      ∀ off, t.memRead off = 0x00000000

/-- R270: while `rst` is high a write has no effect, every read returns 0, the engine does not move, and no step but a
new reset step changes the block; releasing `rst` leaves the block as it is. (That `rst` is a level the host sets is
the model's reading, assumption 4.) -/
def Obligations.BlockHeldWhileRstHigh : Prop :=
  (∀ s : State, s.rst = true →
    (∀ off v, memWrite off v s = .next s) ∧ (∀ off, s.memRead off = 0x00000000) ∧ engineTurn s = s ∧
      ∀ t, step s = .next t → t.blk ≠ s.blk → s.nextIsReset = true) ∧
  ∀ (s : State) (ops : List HostOp), s.nextAgent = .host → s.host = .rst false :: ops →
    ∃ t, step s = .next t ∧ t.blk = s.blk ∧ t.rst = false ∧ t.host = ops

/-! ### Invariants and whole-machine rules -/

/-- The invariant holds right after reset, whatever the unspecified contents are. -/
def Obligations.ResetMeetsInvariant : Prop :=
  State.reset.Inv ∧ ∀ (u : Unspecified) (s : State), s.blk = Block.atReset u → s.Inv

/-- R42 as an inductive invariant: every step from a state that meets it gives a state that meets it. -/
def Obligations.StepKeepsInvariant : Prop :=
  ∀ s t : State, s.Inv → step s = .next t → t.Inv

/-- R42, its five items, in every state reachable from reset. -/
def Obligations.ReachableStatesMeetBufferInvariants : Prop :=
  ∀ s : State, Reachable s →
    (s.blk.phase ≠ .RUN → s.blk.M.length ≤ 63) ∧ (s.blk.phase = .RUN → s.blk.M.length ≤ 3) ∧
    (s.blk.phase = .OPEN → s.blk.M.length = s.blk.BITLEN.toNat / 8 % 64 ∧ s.blk.FILL = s.blk.BITLEN.extractLsb' 3 6) ∧
    (s.blk.phase = .DONE → s.blk.M.length = 0) ∧
    (s.blk.phase = .IDLE → s.blk.M.length = 0 ∧ s.blk.BITLEN = 0) ∧
    (s.blk.phase ≠ .RUN → s.engineEnabled = false)

/-- R30: the phase changes only by reset, an accepted INIT, an ABSORB that forms a block, FINISH, and the accumulate
step, each to the phase the rule gives. -/
def Obligations.PhaseChangesOnlyAlongItsTransitions : Prop :=
  ∀ s t : State, step s = .next t → t.blk.phase ≠ s.blk.phase →
    (s.nextIsReset = true ∧ t.blk.phase = .IDLE) ∨
    (s.nextAccepted = some .init ∧ s.blk.phase ≠ .RUN ∧ t.blk.phase = .OPEN) ∨
    (∃ n, s.nextAccepted = some (.absorb n) ∧ 64 ≤ s.blk.M.length + n ∧ s.blk.phase = .OPEN ∧ t.blk.phase = .RUN) ∨
    (s.nextAccepted = some .finish ∧ s.blk.phase = .OPEN ∧ t.blk.phase = .RUN) ∨
    (s.nextIsEngine = true ∧ s.blk.phase = .RUN ∧ s.blk.rnd = 64 ∧ s.blk.run_next = .TO_OPEN ∧ t.blk.phase = .OPEN) ∨
    (s.nextIsEngine = true ∧ s.blk.phase = .RUN ∧ s.blk.rnd = 64 ∧ s.blk.run_next = .TO_DONE ∧ t.blk.phase = .DONE)

/-- R271: the two ways out of phase RUN, and that each is one. -/
def Obligations.RunIsLeftOnlyByAccumulateOrReset : Prop :=
  (∀ s t : State, step s = .next t → s.blk.phase = .RUN → t.blk.phase ≠ .RUN →
    (s.nextIsEngine = true ∧ s.blk.rnd = 64 ∧ s.blk.run_next ≠ .TO_PAD2) ∨ s.nextIsReset = true) ∧
  (∀ s : State, s.nextIsEngine = true → s.blk.rnd = 64 → s.blk.run_next ≠ .TO_PAD2 →
    ∃ t, step s = .next t ∧ t.blk.phase ≠ .RUN) ∧
  (∀ s : State, s.nextIsReset = true → ∃ t, step s = .next t ∧ t.blk.phase ≠ .RUN)

/-- R21 to R27, R30 to R32: which steps may change each register of the block: A..D only engine steps, INIT and reset;
AA..DD, X and run_next only block start and reset; rnd only engine steps, block start and reset; M only commands and
reset; BITLEN only INIT, ABSORB and reset; DATA_IN only the host's write and reset; ERRCODE only an accepted INIT, a
CTRL write that is not performed, and reset; phase only the accumulate step, an accepted command and reset. -/
def Obligations.EachRegisterChangesOnlyByItsWriters : Prop :=
  ∀ s t : State, step s = .next t → s.nextIsReset = false →
    (t.blk.chain ≠ s.blk.chain → s.nextIsEngine = true ∨ s.nextAccepted = some .init) ∧
    (t.blk.saved ≠ s.blk.saved ∨ t.blk.X ≠ s.blk.X ∨ t.blk.run_next ≠ s.blk.run_next →
      (s.nextIsEngine = true ∧ s.blk.rnd = 64 ∧ s.blk.run_next = .TO_PAD2) ∨
      (∃ n, s.nextAccepted = some (.absorb n) ∧ 64 ≤ s.blk.M.length + n) ∨ s.nextAccepted = some .finish) ∧
    (t.blk.rnd ≠ s.blk.rnd →
      s.nextIsEngine = true ∨ (∃ n, s.nextAccepted = some (.absorb n) ∧ 64 ≤ s.blk.M.length + n) ∨
      s.nextAccepted = some .finish) ∧
    (t.blk.M ≠ s.blk.M → ∃ i, s.nextAccepted = some i) ∧
    (t.blk.BITLEN ≠ s.blk.BITLEN → s.nextAccepted = some .init ∨ ∃ n, s.nextAccepted = some (.absorb n)) ∧
    (t.blk.DATA_IN ≠ s.blk.DATA_IN → s.nextWrite = some (0x08, t.blk.DATA_IN)) ∧
    (t.blk.ERRCODE ≠ s.blk.ERRCODE →
      s.nextAccepted = some .init ∨ (s.nextAccepted = none ∧ ∃ v, s.nextCtrlWord = some v)) ∧
    (t.blk.phase ≠ s.blk.phase →
      (s.nextIsEngine = true ∧ s.blk.rnd = 64 ∧ s.blk.run_next ≠ .TO_PAD2) ∨ ∃ i, s.nextAccepted = some i)

/-- R245, R248: a recorded error stays until an accepted INIT or a reset, which clear it, and an error is recorded
only by a CTRL write that is not performed. -/
def Obligations.FirstErrorKeptUntilInitOrReset : Prop :=
  ∀ s t : State, step s = .next t →
    (s.nextIsReset = true ∨ s.nextAccepted = some .init → t.blk.ERRCODE = .NONE) ∧
    (s.nextIsReset = false → s.nextAccepted ≠ some .init → s.blk.ERRCODE ≠ .NONE → t.blk.ERRCODE = s.blk.ERRCODE) ∧
    (s.blk.ERRCODE = .NONE → t.blk.ERRCODE ≠ .NONE → s.nextAccepted = none ∧ ∃ v, s.nextCtrlWord = some v)

/-- R248: an error does not block later commands: a command accepted in its phase is accepted whatever ERRCODE holds,
and does to everything but ERRCODE what it does with no error recorded. -/
def Obligations.ErrorsDoNotBlockCommands : Prop :=
  ∀ (i : Instr) (s : State) (e : ErrCode), i.wf = true → acceptedIn i s.blk.phase = true → s.blk.ERRCODE = .NONE →
    ∃ t t', exec i s = .next t ∧ exec i (s.setBlk { s.blk with ERRCODE := e }) = .next t' ∧
      t.blk.ERRCODE = .NONE ∧ t'.setBlk { t'.blk with ERRCODE := .NONE } = t

/-! ### The bus (20_memory.md) -/

/-- R64: a MemRead changes no register of the block, and the register then reads the same again. -/
def Obligations.ReadChangesNoState : Prop :=
  ∀ (s : State) (a : BusAddr) (off : Nat) (ops : List HostOp),
    s.nextAgent = .host → s.host = .read a 4 :: ops → busOffset a 4 = .ok off →
      ∃ t, step s = .next t ∧ t.blk = s.blk ∧ t.rst = s.rst ∧ t.host = ops ∧ t.reads = s.memRead off :: s.reads ∧
        ∀ off', t.memRead off' = s.memRead off'

/-- R62: what each offset of the window reads. -/
def Obligations.EachOffsetReadsItsRegister : Prop :=
  ∀ s : State, s.rst = false →
    s.memRead 0x00 = 0x00000000 ∧ s.memRead 0x04 = s.blk.STATUS ∧ s.memRead 0x08 = s.blk.DATA_IN ∧
    (s.memRead 0x14).toNat * 2 ^ 32 + (s.memRead 0x10).toNat = s.blk.BITLEN.toNat ∧
    (s.blk.phase = .DONE → s.memRead 0x20 = s.blk.A ∧ s.memRead 0x24 = s.blk.B ∧ s.memRead 0x28 = s.blk.C ∧
      s.memRead 0x2C = s.blk.D) ∧
    (s.blk.phase ≠ .DONE → ∀ n < 4, s.memRead (0x20 + 4 * n) = 0x00000000) ∧
    (∀ off ∈ [0x0C, 0x18, 0x1C, 0x30, 0x34, 0x38, 0x3C], s.memRead off = 0x00000000)

/-- R40: DIGEST0..3 read 0 outside DONE and the state words in DONE; digest byte 4n+k is DIGESTn[8k+7:8k]; a write to
them is ignored. -/
def Obligations.DigestReadsZeroOutsideDone : Prop :=
  ∀ b : Block,
    (b.phase ≠ .DONE → ∀ n < 4, b.readRegister (0x20 + 4 * n) = 0x00000000) ∧
    (b.phase = .DONE →
      (∀ n < 4, some (b.readRegister (0x20 + 4 * n)) = [b.A, b.B, b.C, b.D][n]?) ∧
      (digestBytes b.chain).length = 16 ∧
      ∀ n < 4, ∀ k < 4, (digestBytes b.chain)[4 * n + k]? = some (byteOf (b.readRegister (0x20 + 4 * n)) k)) ∧
    ∀ s : State, s.blk = b → ∀ n < 4, ∀ v, memWrite (0x20 + 4 * n) v s = .next s

/-- R37, with the code numbers of R27 and R241 written out: the fields of STATUS, its reserved bits, that at most one
of BUSY, DONE and OPEN is 1, its reset value, and that a write to it is ignored. -/
def Obligations.StatusShowsItsFields : Prop :=
  (∀ b : Block, b.M.length ≤ 63 →
    b.STATUS.getLsbD 0 = decide (b.phase = .RUN) ∧ b.STATUS.getLsbD 1 = decide (b.phase = .DONE) ∧
    b.STATUS.getLsbD 2 = decide (b.phase = .OPEN) ∧ b.STATUS.getLsbD 3 = decide (b.ERRCODE ≠ .NONE) ∧
    (b.STATUS.extractLsb' 4 4).toNat =
      (match b.ERRCODE with | .NONE => 0 | .ILLEGAL => 1 | .BUSY => 2 | .SEQUENCE => 3) ∧
    (b.STATUS.extractLsb' 8 6).toNat = b.M.length ∧
    b.STATUS.extractLsb' 14 18 = 0 ∧
    (b.STATUS.extractLsb' 0 3 = 0 ∨ b.STATUS.extractLsb' 0 3 = 1 ∨ b.STATUS.extractLsb' 0 3 = 2 ∨
      b.STATUS.extractLsb' 0 3 = 4)) ∧
  (∀ u, (Block.atReset u).STATUS = 0x00000000) ∧
  ∀ (s : State) (v : Word), memWrite 0x04 v s = .next s

/-- R104: a DATA_IN write stores the whole word in every phase and changes nothing else; it raises no error, and the
word then reads back. -/
def Obligations.DataInWriteStoresInEveryPhase : Prop :=
  ∀ (s : State) (a : BusAddr) (v : Word) (ops : List HostOp), s.nextAgent = .host → s.rst = false →
    s.host = .write a 4 v :: ops → busOffset a 4 = .ok 0x08 →
      ∃ t, step s = .next t ∧ t.blk = { s.blk with DATA_IN := v } ∧ t.rst = false ∧ t.host = ops ∧
        t.reads = s.reads ∧ t.blk.STATUS = s.blk.STATUS ∧ t.memRead 0x08 = v

/-- R110: a write to any offset but CTRL and DATA_IN changes no state and records no error; the reserved offsets read
0. -/
def Obligations.OtherWritesAreIgnored : Prop :=
  ∀ (s : State),
    (∀ (a : BusAddr) (v : Word) (off : Nat) (ops : List HostOp), s.nextAgent = .host → s.host = .write a 4 v :: ops →
      busOffset a 4 = .ok off → off ≠ 0x00 → off ≠ 0x08 →
        step s = .next { s with host := ops, turns := s.turns.tail }) ∧
    ∀ off ∈ [0x0C, 0x18, 0x1C, 0x30, 0x34, 0x38, 0x3C], s.memRead off = 0x00000000

/-- R60, R70, R72, U8: exactly the aligned 4-byte accesses to offsets 0x00 to 0x3C, named by offset or by the address
BASE + offset, are admitted; BASE is a multiple of 64; every other read or write is refused, whatever the state. (That
the refusal is a stop of the host's turn, and the absolute addresses, are the model's form of it, assumptions 7 and
8.) -/
def Obligations.OnlyAlignedWordAccessesInWindowAdmitted : Prop :=
  Config.BASE % 64 = 0 ∧
  (∀ (a : BusAddr) (size off : Nat), busOffset a size = .ok off ↔
    size = 4 ∧ off % 4 = 0 ∧ off ≤ 0x3C ∧ (a = .offset off ∨ a = .absolute (Config.BASE + off))) ∧
  ∀ (s : State) (a : BusAddr) (size : Nat) (v : Word) (ops : List HostOp), s.nextAgent = .host →
    (s.host = .read a size :: ops ∨ s.host = .write a size v :: ops) → (∀ off, busOffset a size ≠ .ok off) →
      ∃ r, step s = .refused r ∧ (r = .subWordAccess ∨ r = .misalignedAccess ∨ r = .outsideWindow)

/-! ### Command encoding (30_encoding.md) -/

/-- A few command words, written out from R84's table and 95_test_vectors.md section 2.1. -/
def Obligations.SampleCommandWordsDecode : Prop :=
  decode 0b00000000000000000000000000000001 = .ok .init ∧
  decode 0b00000000000000000000000000000010 = .ok (.absorb 1) ∧
  decode 0b00000000000000000000000000010010 = .ok (.absorb 2) ∧
  decode 0b00000000000000000000000000100010 = .ok (.absorb 3) ∧
  decode 0b00000000000000000000000000110010 = .ok (.absorb 4) ∧
  decode 0b00000000000000000000000000000011 = .ok .finish ∧
  decode 0x00000000 = .error .unknownCommand ∧ decode 0x0000003F = .error .unknownCommand ∧
  decode 0x00000011 = .error .operandNotZero ∧ decode 0x00000033 = .error .operandNotZero ∧
  decode 0x00000042 = .error .reservedBitSet ∧ decode 0x80000001 = .error .reservedBitSet

/-- Decode and encode agree: every well-formed command is read back from its word, and every word that decodes is the
word of the well-formed command it decodes to. -/
def Obligations.DecodeAndEncodeAgree : Prop :=
  (∀ i : Instr, i.wf = true → decode (encode i) = .ok i) ∧
  ∀ (w : Word) (i : Instr), decode w = .ok i → i.wf = true ∧ encode i = w

/-- R85: a word decodes to a command of a row exactly when it matches that row; ABSORB takes NB = CW[5:4]; a word that
matches no row is illegal; no word matches two rows. -/
def Obligations.DecodeSelectsTheMatchingRow : Prop :=
  ∀ w : Word,
    (decode w = .ok .init ↔ w &&& 0xFFFFFFFF = 0x00000001) ∧
    (∀ n, decode w = .ok (.absorb n) ↔ w &&& 0xFFFFFFCF = 0x00000002 ∧ n = (w.extractLsb' 4 2).toNat + 1) ∧
    (decode w = .ok .finish ↔ w &&& 0xFFFFFFFF = 0x00000003) ∧
    ((∃ e, decode w = .error e) ↔
      w &&& 0xFFFFFFFF ≠ 0x00000001 ∧ w &&& 0xFFFFFFCF ≠ 0x00000002 ∧ w &&& 0xFFFFFFFF ≠ 0x00000003)

/-- R84: decode is total, and exactly six words decode to a command: those of R84's table, each to the command beside
it. -/
def Obligations.ExactlySixWordsAreCommands : Prop :=
  ∀ (w : Word) (i : Instr), decode w = .ok i ↔
    (w, i) ∈ [(0x00000001, .init), (0x00000002, .absorb 1), (0x00000012, .absorb 2), (0x00000022, .absorb 3),
      (0x00000032, .absorb 4), (0x00000003, .finish)]

/-! ### Steps and commands (40_host_commands.md, 60_exceptions.md) -/

/-- R100: when the host's next transaction writes to CTRL a word that decodes to i, the step is exec of i, in the
state with that transaction taken off the host's list and the turn used up. -/
def Obligations.StepRunsTheDecodedCommand : Prop :=
  ∀ (s : State) (a : BusAddr) (v : Word) (i : Instr) (ops : List HostOp), s.nextAgent = .host → s.rst = false →
    s.host = .write a 4 v :: ops → busOffset a 4 = .ok 0x00 → decode v = .ok i →
      step s = exec i { s with host := ops, turns := s.turns.tail }

/-- A command placed by `withFetchWord` is run by the very next step, from any state, with `rst` released (assumption
16). -/
def Obligations.PlacedCommandRunsNext : Prop :=
  ∀ (s : State) (w : Nat) (i : Instr), decodeTableWord 32 w = some i →
    step (s.withFetchWord 32 w) = exec i { s with rst := false }

/-- R101: INIT in IDLE, OPEN or DONE loads IV, clears BITLEN, M and ERRCODE and opens a message; X, AA..DD, rnd,
run_next and DATA_IN are unchanged; STATUS reads 0x00000004 and the digest registers read 0. (The four values of IV
are the spec's own general knowledge, assumption 14.) -/
def Obligations.InitOpensAMessage : Prop :=
  ∀ s : State, s.blk.phase ≠ .RUN →
    ∃ t, exec .init s = .next t ∧
      t.blk.A = 0x67452301 ∧ t.blk.B = 0xefcdab89 ∧ t.blk.C = 0x98badcfe ∧ t.blk.D = 0x10325476 ∧
      t.blk.BITLEN = 0 ∧ t.blk.M = [] ∧ t.blk.ERRCODE = .NONE ∧ t.blk.phase = .OPEN ∧
      t.blk.X = s.blk.X ∧ t.blk.saved = s.blk.saved ∧ t.blk.rnd = s.blk.rnd ∧ t.blk.run_next = s.blk.run_next ∧
      t.blk.DATA_IN = s.blk.DATA_IN ∧ t = s.setBlk t.blk ∧
      t.blk.STATUS = 0x00000004 ∧ ∀ n < 4, t.blk.readRegister (0x20 + 4 * n) = 0x00000000

/-- R102: an ABSORB that leaves fewer than 64 bytes in M appends the low n bytes of DATA_IN, low byte first, and adds
8n to BITLEN mod 2^64; the phase stays OPEN and FILL grows by n. -/
def Obligations.AbsorbBelowABlockAppends : Prop :=
  ∀ (s : State) (n : Nat), 1 ≤ n → n ≤ 4 → s.blk.phase = .OPEN → s.blk.M.length + n < 64 →
    ∃ t, exec (.absorb n) s = .next t ∧
      t.blk.M = s.blk.M ++ [byteOf s.blk.DATA_IN 0, byteOf s.blk.DATA_IN 1, byteOf s.blk.DATA_IN 2,
        byteOf s.blk.DATA_IN 3].take n ∧
      t.blk.BITLEN.toNat = (s.blk.BITLEN.toNat + 8 * n) % 2 ^ 64 ∧
      t = s.setBlk { s.blk with M := t.blk.M, BITLEN := t.blk.BITLEN } ∧
      t.blk.flagOPEN = true ∧ t.blk.FILL.toNat = s.blk.M.length + n

/-- R102, R192: an ABSORB that brings M to 64 bytes starts a RUN on the first 64, keeps the excess, and saves the
chaining state; A..D, DATA_IN and ERRCODE are unchanged. -/
def Obligations.AbsorbReachingABlockStartsARun : Prop :=
  ∀ (s : State) (n : Nat), 1 ≤ n → n ≤ 4 → s.blk.phase = .OPEN → 64 ≤ s.blk.M.length + n →
    ∃ t, exec (.absorb n) s = .next t ∧
      (∀ j : Fin 16, t.blk.X.get j =
        le32 (slice (s.blk.M ++ msgBytes s.blk.DATA_IN n) (4 * j.val) (4 * j.val + 4))) ∧
      t.blk.M = (s.blk.M ++ msgBytes s.blk.DATA_IN n).drop 64 ∧
      t.blk.BITLEN.toNat = (s.blk.BITLEN.toNat + 8 * n) % 2 ^ 64 ∧
      t.blk.saved = s.blk.chain ∧ t.blk.chain = s.blk.chain ∧ t.blk.DATA_IN = s.blk.DATA_IN ∧
      t.blk.ERRCODE = s.blk.ERRCODE ∧ t.blk.phase = .RUN ∧ t.blk.rnd = 0 ∧ t.blk.run_next = .TO_OPEN ∧
      t.blk.flagBUSY = true ∧ t.blk.M.length = s.blk.M.length + n - 64 ∧ t = s.setBlk t.blk

/-- R103, R136: a FINISH with a fill of at most 55 starts a RUN on M, 0x80, zeros up to byte 55 and the length, to end
in DONE; M becomes empty; A..D, BITLEN, DATA_IN and ERRCODE are unchanged. -/
def Obligations.FinishWithRoomStartsOneBlock : Prop :=
  ∀ s : State, s.blk.phase = .OPEN → s.blk.M.length ≤ 55 →
    ∃ t, exec .finish s = .next t ∧
      (∀ j : Fin 16, t.blk.X.get j =
        le32 (slice (s.blk.M ++ [0x80] ++ zeros (55 - s.blk.M.length) ++ bytes_le64 s.blk.BITLEN)
          (4 * j.val) (4 * j.val + 4))) ∧
      t.blk.X.get 14 = s.blk.BITLEN.extractLsb' 0 32 ∧ t.blk.X.get 15 = s.blk.BITLEN.extractLsb' 32 32 ∧
      t.blk.M = [] ∧ t.blk.BITLEN = s.blk.BITLEN ∧ t.blk.saved = s.blk.chain ∧ t.blk.chain = s.blk.chain ∧
      t.blk.DATA_IN = s.blk.DATA_IN ∧ t.blk.ERRCODE = s.blk.ERRCODE ∧ t.blk.phase = .RUN ∧ t.blk.rnd = 0 ∧
      t.blk.run_next = .TO_DONE ∧ t.blk.flagBUSY = true ∧ t.blk.FILL = 0 ∧ t = s.setBlk t.blk

/-- R103, R137: a FINISH with a fill of more than 55 starts a RUN on M, 0x80 and zeros, with a second padding block to
follow. (The buffer invariant R42 makes the fill at most 63.) -/
def Obligations.FinishWithoutRoomStartsTheFirstOfTwo : Prop :=
  ∀ s : State, s.blk.phase = .OPEN → 55 < s.blk.M.length → s.blk.M.length ≤ 63 →
    ∃ t, exec .finish s = .next t ∧
      (∀ j : Fin 16, t.blk.X.get j =
        le32 (slice (s.blk.M ++ [0x80] ++ zeros (63 - s.blk.M.length)) (4 * j.val) (4 * j.val + 4))) ∧
      t.blk.M = [] ∧ t.blk.BITLEN = s.blk.BITLEN ∧ t.blk.saved = s.blk.chain ∧ t.blk.chain = s.blk.chain ∧
      t.blk.DATA_IN = s.blk.DATA_IN ∧ t.blk.ERRCODE = s.blk.ERRCODE ∧ t.blk.phase = .RUN ∧ t.blk.rnd = 0 ∧
      t.blk.run_next = .TO_PAD2 ∧ t.blk.flagBUSY = true ∧ t.blk.FILL = 0 ∧ t = s.setBlk t.blk

/-- R242 to R247: what a CTRL write records when it is not performed, and that nothing else changes. ILLEGAL is
checked first, in every phase; then BUSY; then SEQUENCE, for ABSORB and FINISH only; the first error recorded is kept.
Said of the write, and of the step in which the host makes it, which besides takes the transaction off the host's list
and uses up the turn. -/
def Obligations.RejectedCtrlWriteRecordsItsFirstCauseOnly : Prop :=
  ∀ (s : State) (v : Word),
    let recorded := fun c : ErrCode =>
      s.setBlk { s.blk with ERRCODE := if s.blk.ERRCODE = .NONE then c else s.blk.ERRCODE }
    ((∃ e, decode v = .error e) → ctrlWrite v s = .next (recorded .ILLEGAL)) ∧
    (∀ i, decode v = .ok i → s.blk.phase = .RUN → ctrlWrite v s = .next (recorded .BUSY)) ∧
    (∀ i, decode v = .ok i → i ≠ .init → s.blk.phase = .IDLE ∨ s.blk.phase = .DONE →
      ctrlWrite v s = .next (recorded .SEQUENCE)) ∧
    (∀ i, decode v = .ok i → acceptedIn i s.blk.phase = true →
      ∃ t, ctrlWrite v s = .next t ∧ t.blk.phase ≠ .IDLE ∧ t.blk.phase ≠ .DONE ∧
        (i ≠ .init → t.blk.ERRCODE = s.blk.ERRCODE)) ∧
    (s.nextCtrlWord = some v →
      let stepRecords := fun c : ErrCode => step s = .next
        { s with
          host := s.host.tail
          turns := s.turns.tail
          blk := { s.blk with ERRCODE := if s.blk.ERRCODE = .NONE then c else s.blk.ERRCODE } }
      ((∃ e, decode v = .error e) → stepRecords .ILLEGAL) ∧
      (∀ i, decode v = .ok i → s.blk.phase = .RUN → stepRecords .BUSY) ∧
      (∀ i, decode v = .ok i → i ≠ .init → s.blk.phase = .IDLE ∨ s.blk.phase = .DONE → stepRecords .SEQUENCE) ∧
      (∀ i, decode v = .ok i → acceptedIn i s.blk.phase = true → s.nextAccepted = some i ∧
        ∃ t, step s = .next t ∧ (i ≠ .init → t.blk.ERRCODE = s.blk.ERRCODE)))

/-- R244: ABSORB and FINISH written in IDLE or DONE raise SEQUENCE; INIT never does: a SEQUENCE recorded after an INIT
was recorded before it, and the INIT was rejected in RUN. -/
def Obligations.SequenceRaisedByAbsorbAndFinishNeverByInit : Prop :=
  (∀ (s : State) (i : Instr), i.wf = true → i ≠ .init → s.blk.phase = .IDLE ∨ s.blk.phase = .DONE →
    exec i s = .next (s.setBlk { s.blk with
      ERRCODE := if s.blk.ERRCODE = .NONE then .SEQUENCE else s.blk.ERRCODE })) ∧
  ∀ s t : State, exec .init s = .next t → t.blk.ERRCODE = .SEQUENCE → s.blk.ERRCODE = .SEQUENCE ∧ s.blk.phase = .RUN

/-- The frame of INIT: when it gives a next state, accepted or rejected, X, AA..DD, rnd, run_next and DATA_IN and
everything outside the block are unchanged, and A..D, M, BITLEN and the phase change only when it is accepted. -/
def Obligations.InitFrame : Prop :=
  ∀ s t : State, exec .init s = .next t →
    t.blk.X = s.blk.X ∧ t.blk.saved = s.blk.saved ∧ t.blk.rnd = s.blk.rnd ∧ t.blk.run_next = s.blk.run_next ∧
    t.blk.DATA_IN = s.blk.DATA_IN ∧ t = s.setBlk t.blk ∧
    (s.blk.phase = .RUN → t.blk.chain = s.blk.chain ∧ t.blk.M = s.blk.M ∧ t.blk.BITLEN = s.blk.BITLEN ∧
      t.blk.phase = s.blk.phase)

/-- The frame of ABSORB: when it gives a next state, A..D, DATA_IN and everything outside the block are unchanged;
ERRCODE changes only where it is rejected; X, AA..DD, rnd, run_next and the phase change only where it forms a block;
M and BITLEN only in OPEN. -/
def Obligations.AbsorbFrame : Prop :=
  ∀ (n : Nat) (s t : State), exec (.absorb n) s = .next t →
    t.blk.chain = s.blk.chain ∧ t.blk.DATA_IN = s.blk.DATA_IN ∧ t = s.setBlk t.blk ∧
    (s.blk.phase = .OPEN → t.blk.ERRCODE = s.blk.ERRCODE) ∧
    (s.blk.phase ≠ .OPEN ∨ s.blk.M.length + n < 64 →
      t.blk.X = s.blk.X ∧ t.blk.saved = s.blk.saved ∧ t.blk.rnd = s.blk.rnd ∧ t.blk.run_next = s.blk.run_next ∧
      t.blk.phase = s.blk.phase) ∧
    (s.blk.phase ≠ .OPEN → t.blk.M = s.blk.M ∧ t.blk.BITLEN = s.blk.BITLEN)

/-- The frame of FINISH: when it gives a next state, A..D, BITLEN, DATA_IN and everything outside the block are
unchanged; ERRCODE changes only where it is rejected; everything else only where it is performed, in OPEN. -/
def Obligations.FinishFrame : Prop :=
  ∀ s t : State, exec .finish s = .next t →
    t.blk.chain = s.blk.chain ∧ t.blk.BITLEN = s.blk.BITLEN ∧ t.blk.DATA_IN = s.blk.DATA_IN ∧ t = s.setBlk t.blk ∧
    (s.blk.phase = .OPEN → t.blk.ERRCODE = s.blk.ERRCODE) ∧
    (s.blk.phase ≠ .OPEN → t.blk.X = s.blk.X ∧ t.blk.saved = s.blk.saved ∧ t.blk.rnd = s.blk.rnd ∧
      t.blk.run_next = s.blk.run_next ∧ t.blk.phase = s.blk.phase ∧ t.blk.M = s.blk.M)

/-- R82, R92: an ABSORB whose byte count is outside 1..4 is encoded by no word and is refused. (That `exec` answers
with a refusal is the model's form of it, assumption 9.) -/
def Obligations.AbsorbCountOutsideRangeRefused : Prop :=
  ∀ (n : Nat) (s : State), n = 0 ∨ 4 < n →
    exec (.absorb n) s = .refused .operandOutOfRange ∧ (∀ w, decode w ≠ .ok (.absorb n)) ∧
      (Line.absorb n).expand = none

/-- R274: an ABSORB of n bytes accepted when the message so far holds p bytes forms a block iff (p mod 64) + n ≥ 64,
that is iff the message length crosses a multiple of 64; FILL is p mod 64 in OPEN. -/
def Obligations.AbsorbStartsARunWhenLengthCrossesABlock : Prop :=
  ∀ (s t : State) (m : List Byte) (n : Nat), Delivered s m false → s.nextAccepted = some (.absorb n) → step s = .next t →
    (t.blk.phase = .RUN ↔ 64 ≤ m.length % 64 + n) ∧
    (t.blk.phase = .RUN ↔ (m.length + n) / 64 ≠ m.length / 64) ∧
    s.blk.FILL.toNat = m.length % 64

/-- R74, R92: WAIT polls STATUS: while it reads BUSY = 1 the host stays at it; when it reads BUSY = 0 the host goes
on, and a command written then is not rejected as BUSY. (The loop as one host operation is the model's form of it,
assumption 6.) -/
def Obligations.WaitEndsOnlyWhenNotBusy : Prop :=
  ∀ (s : State) (ops : List HostOp), s.nextAgent = .host → s.rst = false → s.host = .wait :: ops →
    ∃ t, step s = .next t ∧ t.blk = s.blk ∧ t.reads = s.blk.STATUS :: s.reads ∧
      (s.blk.phase = .RUN → t.host = .wait :: ops) ∧
      (s.blk.phase ≠ .RUN → t.host = ops ∧ ∀ (i : Instr) (u : State), exec i t = .next u →
        u.blk.ERRCODE = .BUSY → t.blk.ERRCODE = .BUSY)

/-! ### Words, tables and packing (00_scope.md R11, 42_constant_rom.md, 43_word_arithmetic.md) -/

/-- R11: the packings are the little-endian sums, and the unpackings are their inverses. -/
def Obligations.LittleEndianPackingRoundTrips : Prop :=
  (∀ b0 b1 b2 b3 : Byte, (le32 [b0, b1, b2, b3]).toNat =
    b0.toNat + 2 ^ 8 * b1.toNat + 2 ^ 16 * b2.toNat + 2 ^ 24 * b3.toNat) ∧
  (∀ bs : List Byte, bs.length = 8 →
    (le64 bs).toNat = ((List.range 8).map fun k => 2 ^ (8 * k) * (bs.getD k 0).toNat).sum) ∧
  (∀ w : Word, le32 (bytes_le32 w) = w) ∧ (∀ bs : List Byte, bs.length = 4 → bytes_le32 (le32 bs) = bs) ∧
  (∀ L : Word64, le64 (bytes_le64 L) = L) ∧ (∀ bs : List Byte, bs.length = 8 → bytes_le64 (le64 bs) = bs)

/-- R170, R171: add32 of two operands is their sum mod 2^32; of any list of operands it is what adding one after
another gives, and does not depend on their order. -/
def Obligations.ModularAdditionInAnyOrder : Prop :=
  (∀ a b : Word, (add32 a b).toNat = (a.toNat + b.toNat) % 2 ^ 32) ∧
  (∀ l : List Word, add32s l = l.foldl add32 0) ∧
  (∀ l l' : List Word, l.Perm l' → add32s l = add32s l') ∧
  add32s [0xffffffff, 0xffffffff, 0xffffffff, 0xffffffff] = 0xfffffffc

/-- R172: rotl32 moves bit j to bit (j + s) mod 32, as the formula on unbounded naturals reduced mod 2^32 says. -/
def Obligations.RotationKeepsAllBits : Prop :=
  ∀ (x : Word) (s : RotAmount),
    (∀ j < 32, (rotl32 x s).getLsbD ((j + s.val) % 32) = x.getLsbD j) ∧
    (rotl32 x s).toNat = ((x.toNat <<< s.val) ||| (x.toNat >>> (32 - s.val))) % 2 ^ 32 ∧
    rotl32 0xffffffff s = 0xffffffff ∧ rotl32 0 s = 0

/-- R175 to R180: the mixing functions bit by bit: F0 is "if B then C else D", F1 "if D then B else C", F2 parity, F3
C XOR (B OR NOT D); and round group q uses Fq. -/
def Obligations.MixingFunctionsBitByBit : Prop :=
  ∀ (B C D : Word) (j : Nat), j < 32 →
    let b := B.getLsbD j
    let c := C.getLsbD j
    let d := D.getLsbD j
    (Fq 0 B C D).getLsbD j = (if b then c else d) ∧ (Fq 1 B C D).getLsbD j = (if d then b else c) ∧
    (Fq 2 B C D).getLsbD j = (b ^^ c ^^ d) ∧ (Fq 3 B C D).getLsbD j = (c ^^ (b || !d))

/-- R151, R152: each word of the K ROM is the integer part of |sin(i + 1)| * 2^32, the angle in radians. (The radian
reading is the spec's own general knowledge, G3.) -/
def Obligations.ConstantRomIsScaledSine : Prop :=
  ∀ i : Fin 64, (K i).toNat = ⌊|Real.sin ((i.val : ℝ) + 1)| * 2 ^ 32⌋₊ % 2 ^ 32

/-- R153 to R156: the rotation amounts are those of R153's table and lie in 4..23; g follows its four formulas; in
each round group g takes every word index exactly once. (The amounts of R153 are the spec's own general knowledge,
assumption 14.) -/
def Obligations.ScheduleUsesEveryWordOncePerGroup : Prop :=
  (∀ i : Fin 64, some (S i).val = ([[7, 12, 17, 22], [5, 9, 14, 20], [4, 11, 16, 23], [6, 10, 15, 21]][i.val / 16]?.bind
    fun row => row[i.val % 4]?)) ∧
  (∀ i : Fin 64, 4 ≤ (S i).val ∧ (S i).val ≤ 23) ∧
  (∀ i : Fin 64, (g i).val = if i.val < 16 then i.val else if i.val < 32 then (5 * i.val + 1) % 16
    else if i.val < 48 then (3 * i.val + 5) % 16 else 7 * i.val % 16) ∧
  ∀ (p : Fin 4) (w : Fin 16), ∃! i : Fin 64, q i = p ∧ g i = w

/-! ### The engine (44_round_loop.md) -/

/-- R193, R196: the engine's step at rnd = i in 0..63: one round on A..D, rnd + 1, and nothing else changes. -/
def Obligations.RoundStepRewritesTheWorkingState : Prop :=
  ∀ (s : State) (i : Fin 64), s.nextAgent = .engine → s.rst = false → s.blk.phase = .RUN → s.blk.rnd.val = i.val →
    let b := s.blk
    let f := if i.val < 16 then (b.B &&& b.C) ||| (~~~b.B &&& b.D)
      else if i.val < 32 then (b.D &&& b.B) ||| (~~~b.D &&& b.C)
      else if i.val < 48 then b.B ^^^ b.C ^^^ b.D
      else b.C ^^^ (b.B ||| ~~~b.D)
    step s = .next { s with
      turns := s.turns.tail
      blk := { b with
        A := b.D
        B := b.B + (f + b.A + K i + b.X.get (g i)).rotateLeft (S i).val
        C := b.B
        D := b.C
        rnd := i.succ } }

/-- R194, R197: the engine's step at rnd = 64: AA..DD are added back mod 2^32; then OPEN, DONE, or the second padding
block from the A..D just accumulated, as run_next says. Nothing else changes. -/
def Obligations.AccumulateStepEndsOrContinuesTheRun : Prop :=
  ∀ s : State, s.nextAgent = .engine → s.rst = false → s.blk.phase = .RUN → s.blk.rnd = 64 →
    let b := { s.blk with
      A := s.blk.A + s.blk.AA, B := s.blk.B + s.blk.BB, C := s.blk.C + s.blk.CC, D := s.blk.D + s.blk.DD }
    (s.blk.run_next = .TO_OPEN →
      step s = .next { s with turns := s.turns.tail, blk := { b with phase := .OPEN } }) ∧
    (s.blk.run_next = .TO_DONE →
      step s = .next { s with turns := s.turns.tail, blk := { b with phase := .DONE } }) ∧
    (s.blk.run_next = .TO_PAD2 → ∃ t, step s = .next t ∧
      t = { s with turns := s.turns.tail, blk := { b with
        AA := b.A, BB := b.B, CC := b.C, DD := b.D, X := t.blk.X, rnd := 0, run_next := .TO_DONE } } ∧
      ∀ j : Fin 16, t.blk.X.get j = if j.val < 14 then 0
        else if j.val = 14 then b.BITLEN.extractLsb' 0 32 else b.BITLEN.extractLsb' 32 32)

/-- R198: the engine has no enabled step outside RUN, and never reads or writes DATA_IN, M, BITLEN or ERRCODE, but
that the TO_PAD2 accumulate step reads BITLEN. -/
def Obligations.EngineIgnoresHostRegisters : Prop :=
  (∀ s : State, s.blk.phase ≠ .RUN → engineTurn s = s) ∧
  ∀ (b : Block) (d : Word) (m : List Byte) (l : Word64) (e : ErrCode),
    (b.rnd.val < 64 ∨ b.run_next ≠ .TO_PAD2 ∨ l = b.BITLEN) →
      Block.engineStep { b with DATA_IN := d, M := m, BITLEN := l, ERRCODE := e } =
        { b.engineStep with DATA_IN := d, M := m, BITLEN := l, ERRCODE := e } ∧
      b.engineStep.DATA_IN = b.DATA_IN ∧ b.engineStep.M = b.M ∧ b.engineStep.BITLEN = b.BITLEN ∧
      b.engineStep.ERRCODE = b.ERRCODE

/-- R199: in phase RUN no host transaction but reset changes A..D, AA..DD, X, rnd, run_next, phase, M or BITLEN. -/
def Obligations.HostCannotDisturbARun : Prop :=
  ∀ s t : State, s.blk.phase = .RUN → s.nextIsEngine = false → s.nextIsReset = false → step s = .next t →
    t.blk = { s.blk with DATA_IN := t.blk.DATA_IN, ERRCODE := t.blk.ERRCODE } ∧ s.nextAccepted = none

/-- R200: a RUN begun by ABSORB, or by FINISH with a fill of at most 55, lasts exactly 65 engine steps, one begun by
FINISH with more exactly 130; and from any state in RUN at most 130 engine steps remain. -/
def Obligations.RunLastsItsCountOfEngineSteps : Prop :=
  (∀ (i : Instr) (s t : State), exec i s = .next t → s.blk.phase = .OPEN → t.blk.phase = .RUN →
    let n := if i = .finish ∧ 55 < s.blk.M.length then 130 else 65
    (∀ k < n, (Block.engineSteps k t.blk).phase = .RUN) ∧ (Block.engineSteps n t.blk).phase ≠ .RUN) ∧
  ∀ b : Block, b.phase = .RUN → ∃ k ≤ 130, (Block.engineSteps k b).phase ≠ .RUN

/-- R195: a RUN that starts with BLOCK_START(blk, ·) from a chaining state ends its first accumulate step with A..D =
compress of that chaining state and blk; for TO_PAD2 the second block then chains from the first. -/
def Obligations.RunComputesTheCompressionFunction : Prop :=
  ∀ (b : Block) (blk : List Byte) (nxt : RunNext),
    (Block.engineSteps 65 (b.blockStart blk nxt)).chain = compress b.chain blk ∧
    (Block.engineSteps 130 (b.blockStart blk .TO_PAD2)).chain =
      compress (compress b.chain blk) (finalBlockSecond b.BITLEN)

/-- R280, R200: a RUN ends: from any state in RUN with `rst` low, when nothing the host still has to do touches `rst`
or leaves the bus contract, RUN is left within 130 steps after the turns given are used up. (Weak fairness as a
default turn of the engine is the model's form of it, assumption 1.) -/
def Obligations.EveryRunEnds : Prop :=
  ∀ s : State, s.blk.phase = .RUN → s.rst = false → s.host.all HostOp.plain = true →
    ∃ k t, k ≤ s.turns.length + 130 ∧ run k s = .next t ∧ t.blk.phase ≠ .RUN

/-! ### Padding (41_padding.md) -/

/-- R132, R133: the padded length is n + 1 + z + 8, is 64 times the number of blocks, and z is the least count that
makes it so; there is at least one block; the byte after the message is 0x80 and the last eight bytes are the length.
-/
def Obligations.PaddingFillsWholeBlocks : Prop :=
  ∀ m : List Byte,
    (pad m).length = m.length + 1 + padZeros m.length + 8 ∧
    (pad m).length = 64 * nblocks m.length ∧ 64 * nblocks m.length = 64 * ((m.length + 9 + 63) / 64) ∧
    1 ≤ nblocks m.length ∧ (m.length + 1 + padZeros m.length) % 64 = 56 ∧
    (∀ z, (m.length + 1 + z) % 64 = 56 → padZeros m.length ≤ z) ∧
    (pad m).take m.length = m ∧ (pad m)[m.length]? = some 0x80 ∧
    ((pad m).drop (m.length + 1)).take (padZeros m.length) = List.replicate (padZeros m.length) 0x00 ∧
    (pad m).drop (m.length + 1 + padZeros m.length) = bytes_le64 (BitVec.ofNat 64 (8 * m.length)) ∧
    (blocks m).flatten = pad m ∧ ∀ blk ∈ blocks m, blk.length = 64

/-- R138: the blocks the hardware compresses are the blocks of the padded message: its full 64-byte groups, then the
one or two final blocks that FINISH builds from the rest and the bit count. -/
def Obligations.HardwareBlocksArePaddedBlocks : Prop :=
  ∀ m : List Byte,
    let rest := m.drop (64 * (m.length / 64))
    blocks m = fullBlocks m ++
      (if m.length % 64 ≤ 55 then [finalBlockSingle rest (lengthField m)]
       else [finalBlockFirst rest, finalBlockSecond (lengthField m)])

/-! ### The hardware computes MD5 (45_digest.md) -/

/-- R135: in phase OPEN, after the ABSORBs that deliver m since INIT, however they are chunked and whatever else the
host did, BITLEN is 8n mod 2^64, M is the last n mod 64 bytes of m, and A..D are the chaining state after m's full
blocks. -/
def Obligations.OpenBlockHoldsTheMessageSoFar : Prop :=
  ∀ (s : State) (m : List Byte), Delivered s m false → s.blk.phase = .OPEN → s.blk.Holds m

/-- R224, R225, R248: in phase DONE after FINISH, whatever the chunking, the interleaving, rejected commands and
anything before the INIT, the DIGEST registers hold MD5(m), LEN holds 8 len(m) mod 2^64, and with no error recorded
STATUS is 0x00000002. -/
def Obligations.FinishedDigestIsMd5 : Prop :=
  ∀ (s : State) (m : List Byte), Delivered s m true →
    (s.blk.phase = .RUN ∨ s.blk.phase = .DONE) ∧
    (s.blk.phase = .DONE →
      digestOfWords (s.memRead 0x20) (s.memRead 0x24) (s.memRead 0x28) (s.memRead 0x2C) = MD5 m ∧
      (s.memRead 0x14).toNat * 2 ^ 32 + (s.memRead 0x10).toNat = 8 * m.length % 2 ^ 64 ∧
      (s.blk.ERRCODE = .NONE → s.memRead 0x04 = 0x00000002))

/-- R224: after FINISH every fair continuation without reset reaches DONE, with the digest: within 130 steps after the
turns given are used up. (The fair schedule is the model's form of weak fairness, assumption 1.) -/
def Obligations.FinishedMessageReachesDone : Prop :=
  ∀ (s : State) (m : List Byte), Delivered s m true → s.host.all HostOp.plain = true →
    ∃ k t, k ≤ s.turns.length + 130 ∧ run k s = .next t ∧ t.blk.phase = .DONE ∧
      digestOfWords (t.memRead 0x20) (t.memRead 0x24) (t.memRead 0x28) (t.memRead 0x2C) = MD5 m

/-- R224, end to end: from any state not in RUN with `rst` low, under any interleaving, a host that runs the hashing
program of a list of chunks reads the four words of MD5 of the bytes it delivered. (Assumptions 1 and 6: the fair
schedule, and the polling loop as one host operation.) -/
def Obligations.HashProgramReadsMd5 : Prop :=
  ∀ (s : State) (cs : List Chunk) (ops rest : List HostOp), s.rst = false → s.blk.phase ≠ .RUN →
    expandLines (hashProgram cs) = some ops → s.host = ops ++ rest →
      ∃ k t d0 d1 d2 d3 older, run k s = .next t ∧ t.host = rest ∧ t.blk.phase = .DONE ∧ t.blk.ERRCODE = .NONE ∧
        t.reads = d3 :: d2 :: d1 :: d0 :: older ∧ digestOfWords d0 d1 d2 d3 = MD5 (messageOf cs)

/-- R278: two FINISH commands with no WAIT between them: both outcomes occur, and under every interleaving the end is
DONE with error BUSY or SEQUENCE and the digest of the first FINISH. (The interleaving as a list of turns is the
model's form of it, assumption 1.) -/
def Obligations.UnpolledSecondFinishIsARace : Prop :=
  ∀ s : State, s.rst = false → s.blk.phase = .OPEN → s.blk.ERRCODE = .NONE →
    s.host = [WR .CTRL (encode .finish), WR .CTRL (encode .finish)] →
      let digest := (Block.engineSteps (if s.blk.M.length ≤ 55 then 65 else 130) s.blk.finish).chain
      let ends := fun (ts : List Agent) (c : ErrCode) => ∃ k t, run k (s.setTurns ts) = .next t ∧ t.host = [] ∧
        t.turns = [] ∧ t.blk.phase = .DONE ∧ t.blk.ERRCODE = c ∧ t.blk.chain = digest
      (∃ ts, ends ts .BUSY) ∧ (∃ ts, ends ts .SEQUENCE) ∧ ∀ ts, ends ts .BUSY ∨ ends ts .SEQUENCE

/-! ### What the host cannot learn -/

/-- R43, R45, as an unwinding: two states that differ only where nothing can read them (A..D in IDLE; AA..DD, X, rnd
and run_next outside RUN) take steps to two such states, or are refused alike, and every register reads the same in
both. -/
def Obligations.AlikeStatesStepAlike : Prop :=
  (∀ s t : State, s.Alike t → AlikeOutcomes (step s) (step t)) ∧
  ∀ (s t : State) (off : Nat), s.Alike t → s.memRead off = t.memRead off

/-- R43: no observation depends on the unspecified reset contents: from any two of them, the same host and the same
interleaving read the same values, after any number of steps. -/
def Obligations.ReadsIndependentOfUnspecifiedReset : Prop :=
  ∀ (u v : Unspecified) (s : State) (k : Nat),
    readsOf (run k (s.setBlk (Block.atReset u))) = readsOf (run k (s.setBlk (Block.atReset v)))

/-! ### The message, as an invariant of the step -/

/-- R135, R138, R195, R224 as an inductive invariant: an accepted INIT puts the block on its way with the empty
message, from any state, and every later step but reset keeps it on its way: with the same message, or with the bytes
of an accepted ABSORB appended, or finished by an accepted FINISH. In RUN it says that A..D are the first rnd rounds
of X on the saved state, and what the run will end with. -/
def Obligations.EveryStepKeepsTheMessageTracked : Prop :=
  (∀ s t : State, s.nextAccepted = some .init → step s = .next t → t.Tracks [] false) ∧
  ∀ (s t : State) (m : List Byte) (fin : Bool), s.Tracks m fin → step s = .next t → s.nextIsReset = false →
    (s.nextAccepted = none → t.Tracks m fin) ∧
    (∀ n, s.nextAccepted = some (.absorb n) → fin = false ∧ t.Tracks (m ++ msgBytes s.blk.DATA_IN n) false) ∧
    (s.nextAccepted = some .finish → fin = false ∧ t.Tracks m true)
end

