-- ==== Sys2Proof/Laws/State.lean ====
section
/-! SUPPORT. One lemma per field per named update of State and of Block, each true by rfl, so that no later proof unfolds a
record update. -/

namespace Sys2Proof.Machine

@[simp] theorem State.setBlk_blk (s : State) (b : Block) : (s.setBlk b).blk = b := rfl
@[simp] theorem State.setBlk_rst (s : State) (b : Block) : (s.setBlk b).rst = s.rst := rfl
@[simp] theorem State.setBlk_draws (s : State) (b : Block) : (s.setBlk b).draws = s.draws := rfl
@[simp] theorem State.setBlk_reads (s : State) (b : Block) : (s.setBlk b).reads = s.reads := rfl
@[simp] theorem State.setBlk_host (s : State) (b : Block) : (s.setBlk b).host = s.host := rfl
@[simp] theorem State.setBlk_turns (s : State) (b : Block) : (s.setBlk b).turns = s.turns := rfl

@[simp] theorem State.setRst_blk (s : State) (v : Bool) : (s.setRst v).blk = s.blk := rfl
@[simp] theorem State.setRst_rst (s : State) (v : Bool) : (s.setRst v).rst = v := rfl
@[simp] theorem State.setRst_draws (s : State) (v : Bool) : (s.setRst v).draws = s.draws := rfl
@[simp] theorem State.setRst_reads (s : State) (v : Bool) : (s.setRst v).reads = s.reads := rfl
@[simp] theorem State.setRst_host (s : State) (v : Bool) : (s.setRst v).host = s.host := rfl
@[simp] theorem State.setRst_turns (s : State) (v : Bool) : (s.setRst v).turns = s.turns := rfl

@[simp] theorem State.pushRead_blk (s : State) (v : Word) : (s.pushRead v).blk = s.blk := rfl
@[simp] theorem State.pushRead_rst (s : State) (v : Word) : (s.pushRead v).rst = s.rst := rfl
@[simp] theorem State.pushRead_draws (s : State) (v : Word) : (s.pushRead v).draws = s.draws := rfl
@[simp] theorem State.pushRead_reads (s : State) (v : Word) : (s.pushRead v).reads = v :: s.reads := rfl
@[simp] theorem State.pushRead_host (s : State) (v : Word) : (s.pushRead v).host = s.host := rfl
@[simp] theorem State.pushRead_turns (s : State) (v : Word) : (s.pushRead v).turns = s.turns := rfl

@[simp] theorem State.setHost_blk (s : State) (ops : List HostOp) : (s.setHost ops).blk = s.blk := rfl
@[simp] theorem State.setHost_rst (s : State) (ops : List HostOp) : (s.setHost ops).rst = s.rst := rfl
@[simp] theorem State.setHost_draws (s : State) (ops : List HostOp) : (s.setHost ops).draws = s.draws := rfl
@[simp] theorem State.setHost_reads (s : State) (ops : List HostOp) : (s.setHost ops).reads = s.reads := rfl
@[simp] theorem State.setHost_host (s : State) (ops : List HostOp) : (s.setHost ops).host = ops := rfl
@[simp] theorem State.setHost_turns (s : State) (ops : List HostOp) : (s.setHost ops).turns = s.turns := rfl

@[simp] theorem State.setTurns_blk (s : State) (ts : List Agent) : (s.setTurns ts).blk = s.blk := rfl
@[simp] theorem State.setTurns_rst (s : State) (ts : List Agent) : (s.setTurns ts).rst = s.rst := rfl
@[simp] theorem State.setTurns_draws (s : State) (ts : List Agent) : (s.setTurns ts).draws = s.draws := rfl
@[simp] theorem State.setTurns_reads (s : State) (ts : List Agent) : (s.setTurns ts).reads = s.reads := rfl
@[simp] theorem State.setTurns_host (s : State) (ts : List Agent) : (s.setTurns ts).host = s.host := rfl
@[simp] theorem State.setTurns_turns (s : State) (ts : List Agent) : (s.setTurns ts).turns = ts := rfl

@[simp] theorem State.resetStep_blk (s : State) : (s.resetStep).blk = Block.atReset (Config.unspecified s.draws) := rfl
@[simp] theorem State.resetStep_rst (s : State) : (s.resetStep).rst = true := rfl
@[simp] theorem State.resetStep_draws (s : State) : (s.resetStep).draws = s.draws + 1 := rfl
@[simp] theorem State.resetStep_reads (s : State) : (s.resetStep).reads = s.reads := rfl
@[simp] theorem State.resetStep_host (s : State) : (s.resetStep).host = s.host := rfl
@[simp] theorem State.resetStep_turns (s : State) : (s.resetStep).turns = s.turns := rfl

@[simp] theorem State.raiseError_blk (s : State) (c : ErrCode) : (s.raiseError c).blk = s.blk.raiseError c := rfl
@[simp] theorem State.raiseError_rst (s : State) (c : ErrCode) : (s.raiseError c).rst = s.rst := rfl
@[simp] theorem State.raiseError_draws (s : State) (c : ErrCode) : (s.raiseError c).draws = s.draws := rfl
@[simp] theorem State.raiseError_reads (s : State) (c : ErrCode) : (s.raiseError c).reads = s.reads := rfl
@[simp] theorem State.raiseError_host (s : State) (c : ErrCode) : (s.raiseError c).host = s.host := rfl
@[simp] theorem State.raiseError_turns (s : State) (c : ErrCode) : (s.raiseError c).turns = s.turns := rfl

@[simp] theorem Block.setChain_A (b : Block) (c : Chain) : (b.setChain c).A = c.A := rfl
@[simp] theorem Block.setChain_B (b : Block) (c : Chain) : (b.setChain c).B = c.B := rfl
@[simp] theorem Block.setChain_C (b : Block) (c : Chain) : (b.setChain c).C = c.C := rfl
@[simp] theorem Block.setChain_D (b : Block) (c : Chain) : (b.setChain c).D = c.D := rfl
@[simp] theorem Block.setChain_AA (b : Block) (c : Chain) : (b.setChain c).AA = b.AA := rfl
@[simp] theorem Block.setChain_BB (b : Block) (c : Chain) : (b.setChain c).BB = b.BB := rfl
@[simp] theorem Block.setChain_CC (b : Block) (c : Chain) : (b.setChain c).CC = b.CC := rfl
@[simp] theorem Block.setChain_DD (b : Block) (c : Chain) : (b.setChain c).DD = b.DD := rfl
@[simp] theorem Block.setChain_X (b : Block) (c : Chain) : (b.setChain c).X = b.X := rfl
@[simp] theorem Block.setChain_M (b : Block) (c : Chain) : (b.setChain c).M = b.M := rfl
@[simp] theorem Block.setChain_BITLEN (b : Block) (c : Chain) : (b.setChain c).BITLEN = b.BITLEN := rfl
@[simp] theorem Block.setChain_DATA_IN (b : Block) (c : Chain) : (b.setChain c).DATA_IN = b.DATA_IN := rfl
@[simp] theorem Block.setChain_ERRCODE (b : Block) (c : Chain) : (b.setChain c).ERRCODE = b.ERRCODE := rfl
@[simp] theorem Block.setChain_phase (b : Block) (c : Chain) : (b.setChain c).phase = b.phase := rfl
@[simp] theorem Block.setChain_rnd (b : Block) (c : Chain) : (b.setChain c).rnd = b.rnd := rfl
@[simp] theorem Block.setChain_run_next (b : Block) (c : Chain) : (b.setChain c).run_next = b.run_next := rfl

@[simp] theorem Block.clearError_A (b : Block) : (b.clearError).A = b.A := rfl
@[simp] theorem Block.clearError_B (b : Block) : (b.clearError).B = b.B := rfl
@[simp] theorem Block.clearError_C (b : Block) : (b.clearError).C = b.C := rfl
@[simp] theorem Block.clearError_D (b : Block) : (b.clearError).D = b.D := rfl
@[simp] theorem Block.clearError_AA (b : Block) : (b.clearError).AA = b.AA := rfl
@[simp] theorem Block.clearError_BB (b : Block) : (b.clearError).BB = b.BB := rfl
@[simp] theorem Block.clearError_CC (b : Block) : (b.clearError).CC = b.CC := rfl
@[simp] theorem Block.clearError_DD (b : Block) : (b.clearError).DD = b.DD := rfl
@[simp] theorem Block.clearError_X (b : Block) : (b.clearError).X = b.X := rfl
@[simp] theorem Block.clearError_M (b : Block) : (b.clearError).M = b.M := rfl
@[simp] theorem Block.clearError_BITLEN (b : Block) : (b.clearError).BITLEN = b.BITLEN := rfl
@[simp] theorem Block.clearError_DATA_IN (b : Block) : (b.clearError).DATA_IN = b.DATA_IN := rfl
@[simp] theorem Block.clearError_ERRCODE (b : Block) : (b.clearError).ERRCODE = .NONE := rfl
@[simp] theorem Block.clearError_phase (b : Block) : (b.clearError).phase = b.phase := rfl
@[simp] theorem Block.clearError_rnd (b : Block) : (b.clearError).rnd = b.rnd := rfl
@[simp] theorem Block.clearError_run_next (b : Block) : (b.clearError).run_next = b.run_next := rfl

@[simp] theorem Block.blockStart_A (b : Block) (blk : List Byte) (nxt : RunNext) : (b.blockStart blk nxt).A = b.A := rfl
@[simp] theorem Block.blockStart_B (b : Block) (blk : List Byte) (nxt : RunNext) : (b.blockStart blk nxt).B = b.B := rfl
@[simp] theorem Block.blockStart_C (b : Block) (blk : List Byte) (nxt : RunNext) : (b.blockStart blk nxt).C = b.C := rfl
@[simp] theorem Block.blockStart_D (b : Block) (blk : List Byte) (nxt : RunNext) : (b.blockStart blk nxt).D = b.D := rfl
@[simp] theorem Block.blockStart_AA (b : Block) (blk : List Byte) (nxt : RunNext) : (b.blockStart blk nxt).AA = b.A := rfl
@[simp] theorem Block.blockStart_BB (b : Block) (blk : List Byte) (nxt : RunNext) : (b.blockStart blk nxt).BB = b.B := rfl
@[simp] theorem Block.blockStart_CC (b : Block) (blk : List Byte) (nxt : RunNext) : (b.blockStart blk nxt).CC = b.C := rfl
@[simp] theorem Block.blockStart_DD (b : Block) (blk : List Byte) (nxt : RunNext) : (b.blockStart blk nxt).DD = b.D := rfl
@[simp] theorem Block.blockStart_X (b : Block) (blk : List Byte) (nxt : RunNext) : (b.blockStart blk nxt).X = blockWords blk := rfl
@[simp] theorem Block.blockStart_M (b : Block) (blk : List Byte) (nxt : RunNext) : (b.blockStart blk nxt).M = b.M := rfl
@[simp] theorem Block.blockStart_BITLEN (b : Block) (blk : List Byte) (nxt : RunNext) : (b.blockStart blk nxt).BITLEN = b.BITLEN := rfl
@[simp] theorem Block.blockStart_DATA_IN (b : Block) (blk : List Byte) (nxt : RunNext) : (b.blockStart blk nxt).DATA_IN = b.DATA_IN := rfl
@[simp] theorem Block.blockStart_ERRCODE (b : Block) (blk : List Byte) (nxt : RunNext) : (b.blockStart blk nxt).ERRCODE = b.ERRCODE := rfl
@[simp] theorem Block.blockStart_phase (b : Block) (blk : List Byte) (nxt : RunNext) : (b.blockStart blk nxt).phase = .RUN := rfl
@[simp] theorem Block.blockStart_rnd (b : Block) (blk : List Byte) (nxt : RunNext) : (b.blockStart blk nxt).rnd = 0 := rfl
@[simp] theorem Block.blockStart_run_next (b : Block) (blk : List Byte) (nxt : RunNext) : (b.blockStart blk nxt).run_next = nxt := rfl

@[simp] theorem Block.openMessage_A (b : Block) : (b.openMessage).A = IV.A := rfl
@[simp] theorem Block.openMessage_B (b : Block) : (b.openMessage).B = IV.B := rfl
@[simp] theorem Block.openMessage_C (b : Block) : (b.openMessage).C = IV.C := rfl
@[simp] theorem Block.openMessage_D (b : Block) : (b.openMessage).D = IV.D := rfl
@[simp] theorem Block.openMessage_AA (b : Block) : (b.openMessage).AA = b.AA := rfl
@[simp] theorem Block.openMessage_BB (b : Block) : (b.openMessage).BB = b.BB := rfl
@[simp] theorem Block.openMessage_CC (b : Block) : (b.openMessage).CC = b.CC := rfl
@[simp] theorem Block.openMessage_DD (b : Block) : (b.openMessage).DD = b.DD := rfl
@[simp] theorem Block.openMessage_X (b : Block) : (b.openMessage).X = b.X := rfl
@[simp] theorem Block.openMessage_M (b : Block) : (b.openMessage).M = [] := rfl
@[simp] theorem Block.openMessage_BITLEN (b : Block) : (b.openMessage).BITLEN = 0 := rfl
@[simp] theorem Block.openMessage_DATA_IN (b : Block) : (b.openMessage).DATA_IN = b.DATA_IN := rfl
@[simp] theorem Block.openMessage_ERRCODE (b : Block) : (b.openMessage).ERRCODE = .NONE := rfl
@[simp] theorem Block.openMessage_phase (b : Block) : (b.openMessage).phase = .OPEN := rfl
@[simp] theorem Block.openMessage_rnd (b : Block) : (b.openMessage).rnd = b.rnd := rfl
@[simp] theorem Block.openMessage_run_next (b : Block) : (b.openMessage).run_next = b.run_next := rfl

@[simp] theorem Block.roundStep_A (b : Block) (i : Fin 64) : (b.roundStep i).A = (roundFn b.X b.chain i).A := rfl
@[simp] theorem Block.roundStep_B (b : Block) (i : Fin 64) : (b.roundStep i).B = (roundFn b.X b.chain i).B := rfl
@[simp] theorem Block.roundStep_C (b : Block) (i : Fin 64) : (b.roundStep i).C = (roundFn b.X b.chain i).C := rfl
@[simp] theorem Block.roundStep_D (b : Block) (i : Fin 64) : (b.roundStep i).D = (roundFn b.X b.chain i).D := rfl
@[simp] theorem Block.roundStep_AA (b : Block) (i : Fin 64) : (b.roundStep i).AA = b.AA := rfl
@[simp] theorem Block.roundStep_BB (b : Block) (i : Fin 64) : (b.roundStep i).BB = b.BB := rfl
@[simp] theorem Block.roundStep_CC (b : Block) (i : Fin 64) : (b.roundStep i).CC = b.CC := rfl
@[simp] theorem Block.roundStep_DD (b : Block) (i : Fin 64) : (b.roundStep i).DD = b.DD := rfl
@[simp] theorem Block.roundStep_X (b : Block) (i : Fin 64) : (b.roundStep i).X = b.X := rfl
@[simp] theorem Block.roundStep_M (b : Block) (i : Fin 64) : (b.roundStep i).M = b.M := rfl
@[simp] theorem Block.roundStep_BITLEN (b : Block) (i : Fin 64) : (b.roundStep i).BITLEN = b.BITLEN := rfl
@[simp] theorem Block.roundStep_DATA_IN (b : Block) (i : Fin 64) : (b.roundStep i).DATA_IN = b.DATA_IN := rfl
@[simp] theorem Block.roundStep_ERRCODE (b : Block) (i : Fin 64) : (b.roundStep i).ERRCODE = b.ERRCODE := rfl
@[simp] theorem Block.roundStep_phase (b : Block) (i : Fin 64) : (b.roundStep i).phase = b.phase := rfl
@[simp] theorem Block.roundStep_rnd (b : Block) (i : Fin 64) : (b.roundStep i).rnd = i.succ := rfl
@[simp] theorem Block.roundStep_run_next (b : Block) (i : Fin 64) : (b.roundStep i).run_next = b.run_next := rfl

@[simp] theorem Block.atReset_A (u : Unspecified) : (Block.atReset u).A = u.A := rfl
@[simp] theorem Block.atReset_B (u : Unspecified) : (Block.atReset u).B = u.B := rfl
@[simp] theorem Block.atReset_C (u : Unspecified) : (Block.atReset u).C = u.C := rfl
@[simp] theorem Block.atReset_D (u : Unspecified) : (Block.atReset u).D = u.D := rfl
@[simp] theorem Block.atReset_AA (u : Unspecified) : (Block.atReset u).AA = u.AA := rfl
@[simp] theorem Block.atReset_BB (u : Unspecified) : (Block.atReset u).BB = u.BB := rfl
@[simp] theorem Block.atReset_CC (u : Unspecified) : (Block.atReset u).CC = u.CC := rfl
@[simp] theorem Block.atReset_DD (u : Unspecified) : (Block.atReset u).DD = u.DD := rfl
@[simp] theorem Block.atReset_X (u : Unspecified) : (Block.atReset u).X = u.X := rfl
@[simp] theorem Block.atReset_M (u : Unspecified) : (Block.atReset u).M = [] := rfl
@[simp] theorem Block.atReset_BITLEN (u : Unspecified) : (Block.atReset u).BITLEN = 0 := rfl
@[simp] theorem Block.atReset_DATA_IN (u : Unspecified) : (Block.atReset u).DATA_IN = 0 := rfl
@[simp] theorem Block.atReset_ERRCODE (u : Unspecified) : (Block.atReset u).ERRCODE = .NONE := rfl
@[simp] theorem Block.atReset_phase (u : Unspecified) : (Block.atReset u).phase = .IDLE := rfl
@[simp] theorem Block.atReset_rnd (u : Unspecified) : (Block.atReset u).rnd = u.rnd := rfl
@[simp] theorem Block.atReset_run_next (u : Unspecified) : (Block.atReset u).run_next = u.run_next := rfl

@[simp] theorem Block.raiseError_A (b : Block) (c : ErrCode) : (b.raiseError c).A = b.A := by
  unfold Block.raiseError; split <;> rfl
@[simp] theorem Block.raiseError_B (b : Block) (c : ErrCode) : (b.raiseError c).B = b.B := by
  unfold Block.raiseError; split <;> rfl
@[simp] theorem Block.raiseError_C (b : Block) (c : ErrCode) : (b.raiseError c).C = b.C := by
  unfold Block.raiseError; split <;> rfl
@[simp] theorem Block.raiseError_D (b : Block) (c : ErrCode) : (b.raiseError c).D = b.D := by
  unfold Block.raiseError; split <;> rfl
@[simp] theorem Block.raiseError_AA (b : Block) (c : ErrCode) : (b.raiseError c).AA = b.AA := by
  unfold Block.raiseError; split <;> rfl
@[simp] theorem Block.raiseError_BB (b : Block) (c : ErrCode) : (b.raiseError c).BB = b.BB := by
  unfold Block.raiseError; split <;> rfl
@[simp] theorem Block.raiseError_CC (b : Block) (c : ErrCode) : (b.raiseError c).CC = b.CC := by
  unfold Block.raiseError; split <;> rfl
@[simp] theorem Block.raiseError_DD (b : Block) (c : ErrCode) : (b.raiseError c).DD = b.DD := by
  unfold Block.raiseError; split <;> rfl
@[simp] theorem Block.raiseError_X (b : Block) (c : ErrCode) : (b.raiseError c).X = b.X := by
  unfold Block.raiseError; split <;> rfl
@[simp] theorem Block.raiseError_M (b : Block) (c : ErrCode) : (b.raiseError c).M = b.M := by
  unfold Block.raiseError; split <;> rfl
@[simp] theorem Block.raiseError_BITLEN (b : Block) (c : ErrCode) : (b.raiseError c).BITLEN = b.BITLEN := by
  unfold Block.raiseError; split <;> rfl
@[simp] theorem Block.raiseError_DATA_IN (b : Block) (c : ErrCode) : (b.raiseError c).DATA_IN = b.DATA_IN := by
  unfold Block.raiseError; split <;> rfl
@[simp] theorem Block.raiseError_phase (b : Block) (c : ErrCode) : (b.raiseError c).phase = b.phase := by
  unfold Block.raiseError; split <;> rfl
@[simp] theorem Block.raiseError_rnd (b : Block) (c : ErrCode) : (b.raiseError c).rnd = b.rnd := by
  unfold Block.raiseError; split <;> rfl
@[simp] theorem Block.raiseError_run_next (b : Block) (c : ErrCode) : (b.raiseError c).run_next = b.run_next := by
  unfold Block.raiseError; split <;> rfl

/-- What `raise Error(c)` records (60_exceptions.md R245). -/
theorem Block.raiseError_ERRCODE (b : Block) (c : ErrCode) :
    (b.raiseError c).ERRCODE = if b.ERRCODE = .NONE then c else b.ERRCODE := by
  unfold Block.raiseError; split <;> simp_all

/-- Everything `raise Error(c)` does (R245, R247). -/
theorem Block.raiseError_eq (b : Block) (c : ErrCode) :
    b.raiseError c = { b with ERRCODE := if b.ERRCODE = .NONE then c else b.ERRCODE } := by
  unfold Block.raiseError; split <;> simp_all

@[simp] theorem Block.raiseError_chain (b : Block) (c : ErrCode) : (b.raiseError c).chain = b.chain := by
  simp [Block.chain]

@[simp] theorem Block.setChain_chain (b : Block) (c : Chain) : (b.setChain c).chain = c := rfl

@[simp] theorem Block.setChain_saved (b : Block) (c : Chain) : (b.setChain c).saved = b.saved := rfl

@[simp] theorem Block.blockStart_chain (b : Block) (blk : List Byte) (nxt : RunNext) :
    (b.blockStart blk nxt).chain = b.chain := rfl

@[simp] theorem Block.blockStart_saved (b : Block) (blk : List Byte) (nxt : RunNext) :
    (b.blockStart blk nxt).saved = b.chain := rfl

@[simp] theorem Block.openMessage_chain (b : Block) : b.openMessage.chain = IV := rfl

@[simp] theorem Block.roundStep_chain (b : Block) (i : Fin 64) : (b.roundStep i).chain = roundFn b.X b.chain i := rfl

@[simp] theorem Block.roundStep_saved (b : Block) (i : Fin 64) : (b.roundStep i).saved = b.saved := rfl

end Sys2Proof.Machine
end

