-- ==== Sys2Proof/Laws/Ops.lean ====
section
/-! SUPPORT. One lemma per shared operation that says everything it can do; later proofs cite these and unfold nothing. -/

namespace Sys2Proof.Machine

/-- Everything the acceptance of a command can do: it never stops, and it ends in one of three ways. -/
theorem command_cases (needsOpen : Bool) (effect : Block → Block) (s : State) :
    (s.blk.phase = .RUN ∧ command needsOpen effect s = .next (s.raiseError .BUSY)) ∨
    (s.blk.phase ≠ .RUN ∧ needsOpen = true ∧ s.blk.phase ≠ .OPEN ∧
      command needsOpen effect s = .next (s.raiseError .SEQUENCE)) ∨
    (s.blk.phase ≠ .RUN ∧ (needsOpen = true → s.blk.phase = .OPEN) ∧
      command needsOpen effect s = .next (s.setBlk (effect s.blk))) := by
  unfold command
  by_cases hr : s.blk.phase = .RUN
  · exact .inl ⟨hr, if_pos hr⟩
  · by_cases ho : needsOpen = true ∧ s.blk.phase ≠ .OPEN
    · exact .inr (.inl ⟨hr, ho.1, ho.2, by rw [if_neg hr, if_pos ho]⟩)
    · refine .inr (.inr ⟨hr, ?_, by rw [if_neg hr, if_neg ho]⟩)
      intro h; by_contra hne; exact ho ⟨h, hne⟩

/-- What a command does to the block when it is performed (40_host_commands.md R101 to R103). -/
def effectOf : Instr → Block → Block
  | .init => Block.openMessage
  | .absorb n => Block.absorb n
  | .finish => Block.finish

/-- Everything a well-formed command can do: it is rejected with one recorded error, or performed. -/
theorem exec_cases (i : Instr) (hi : i.wf = true) (s : State) :
    (acceptedIn i s.blk.phase = true ∧ exec i s = .next (s.setBlk (effectOf i s.blk))) ∨
    (acceptedIn i s.blk.phase = false ∧ s.blk.phase = .RUN ∧ exec i s = .next (s.raiseError .BUSY)) ∨
    (acceptedIn i s.blk.phase = false ∧ s.blk.phase ≠ .RUN ∧ exec i s = .next (s.raiseError .SEQUENCE)) := by
  cases i with
  | init =>
    rcases command_cases false Block.openMessage s with ⟨h, e⟩ | ⟨_, h, _⟩ | ⟨h, _, e⟩
    · exact .inr (.inl ⟨by simp [acceptedIn, h], h, e⟩)
    · cases h
    · exact .inl ⟨by simp [acceptedIn, h], e⟩
  | absorb n =>
    have he : exec (.absorb n) s = command true (Block.absorb n) s := by
      show execAbsorb n s = _
      unfold execAbsorb
      rw [if_pos hi]
    rw [he]
    rcases command_cases true (Block.absorb n) s with ⟨h, e⟩ | ⟨h, _, h', e⟩ | ⟨h, h', e⟩
    · exact .inr (.inl ⟨by simp [acceptedIn, h], h, e⟩)
    · exact .inr (.inr ⟨by simp [acceptedIn, h'], h, e⟩)
    · exact .inl ⟨by simp [acceptedIn, h' rfl], e⟩
  | finish =>
    rcases command_cases true Block.finish s with ⟨h, e⟩ | ⟨h, _, h', e⟩ | ⟨h, h', e⟩
    · exact .inr (.inl ⟨by simp [acceptedIn, h], h, e⟩)
    · exact .inr (.inr ⟨by simp [acceptedIn, h'], h, e⟩)
    · exact .inl ⟨by simp [acceptedIn, h' rfl], e⟩

/-- The decoder gives only commands some word encodes. -/
theorem decode_wf {w : Word} {i : Instr} (h : decode w = .ok i) : i.wf = true := by
  unfold decode at h
  split at h
  · cases h
  · split at h
    · cases h; rfl
    · split at h
      · cases h
        have := (fieldNB w).isLt
        simp [Instr.wf]; omega
      · split at h
        · cases h; rfl
        · split at h <;> cases h

/-- An access that is admitted names a word offset of the window. -/
theorem busOffset_ok {a : BusAddr} {size off : Nat} (h : busOffset a size = .ok off) :
    size = 4 ∧ off % 4 = 0 ∧ off ≤ 0x3C := by
  unfold busOffset at h
  split at h
  · cases h
  · rename_i hs
    split at h
    · cases h
    · split at h
      · cases h
      · split at h
        · cases h
        · cases h; omega

/-- Everything a MemWrite can do. -/
theorem memWrite_cases (off : Nat) (v : Word) (s : State) :
    (s.rst = true ∧ memWrite off v s = .next s) ∨
    (s.rst = false ∧ off = 0x00 ∧ memWrite off v s = ctrlWrite v s) ∨
    (s.rst = false ∧ off = 0x08 ∧ memWrite off v s = .next (s.setBlk { s.blk with DATA_IN := v })) ∨
    (s.rst = false ∧ off ≠ 0x00 ∧ off ≠ 0x08 ∧ memWrite off v s = .next s) := by
  unfold memWrite
  cases hr : s.rst
  · simp only [Bool.false_eq_true, if_false]
    split
    · simp
    · simp
    · rename_i h0 h8
      exact .inr (.inr (.inr ⟨trivial, fun h => h0 h, fun h => h8 h, rfl⟩))
  · simp

/-- Everything a CTRL write can do (40_host_commands.md R100). -/
theorem ctrlWrite_cases (v : Word) (s : State) :
    (∃ e, decode v = .error e ∧ ctrlWrite v s = .next (s.raiseError .ILLEGAL)) ∨
    (∃ i, decode v = .ok i ∧ i.wf = true ∧ ctrlWrite v s = exec i s) := by
  unfold ctrlWrite
  cases h : decode v with
  | error e => exact .inl ⟨e, rfl, rfl⟩
  | ok i => exact .inr ⟨i, rfl, decode_wf h, rfl⟩

end Sys2Proof.Machine
end

