-- ==== Sys2Proof/Laws/Words.lean ====
section
/-! SUPPORT. The word operations in Lean's own terms, and the packing and slicing lemmas. -/

namespace Sys2Proof.Machine

theorem add32_eq_add (a b : Word) : add32 a b = a + b := by
  apply BitVec.eq_of_toNat_eq; simp [add32, BitVec.toNat_add]

theorem add32s_eq_sum (l : List Word) : add32s l = l.sum := by
  unfold add32s
  induction l with
  | nil => rfl
  | cons a l ih =>
    rw [List.sum_cons, ← ih]
    apply BitVec.eq_of_toNat_eq; simp [BitVec.toNat_add]

theorem rotl32_eq_rotateLeft (x : Word) (s : RotAmount) : rotl32 x s = x.rotateLeft s.val := by
  obtain ⟨s, h1, h2⟩ := s
  simp only [rotl32, BitVec.rotateLeft, BitVec.rotateLeftAux]
  rw [Nat.mod_eq_of_lt (by omega)]

theorem not32_eq_not (x : Word) : not32 x = ~~~x := by
  unfold not32
  exact BitVec.xor_allOnes

theorem byteOf_toNat {n : Nat} (w : BitVec n) (k : Nat) : (byteOf w k).toNat = w.toNat / 2 ^ (8 * k) % 256 := by
  simp [byteOf, Nat.shiftRight_eq_div_pow]

@[simp] theorem msgBytes_length (w : Word) (n : Nat) : (msgBytes w n).length = n := by simp [msgBytes]

@[simp] theorem bytes_le64_length (L : Word64) : (bytes_le64 L).length = 8 := rfl

@[simp] theorem zeros_length (n : Nat) : (zeros n).length = n := by simp [zeros]

/-- The words of a block (44_round_loop.md R192). -/
theorem blockWords_get (blk : List Byte) (j : Fin 16) :
    (blockWords blk).get j = le32 (slice blk (4 * j.val) (4 * j.val + 4)) := by
  show (Vector.ofFn _).get j = _
  rw [Vector.get_eq_getElem]; simp

theorem slice_take (l : List Byte) (i j k : Nat) (h : j ≤ k) : slice (l.take k) i j = slice l i j := by
  unfold slice
  rw [List.drop_take, List.take_take]
  congr 1; omega

theorem slice_append_left (l r : List Byte) (i j : Nat) (h : j ≤ l.length) : slice (l ++ r) i j = slice l i j := by
  unfold slice
  by_cases hi : i ≤ l.length
  · rw [List.drop_append_of_le_length hi, List.take_append_of_le_length (by simp; omega)]
  · rw [show j - i = 0 by omega]; simp

end Sys2Proof.Machine
end

