-- ==== Sys2Proof/Laws/Commands.lean ====
section
/-! SUPPORT. The effects of the three commands, form by form, so that no later proof unfolds them. -/

namespace Sys2Proof.Machine

/-- A command performed in its phase (40_host_commands.md R101 to R103). -/
theorem exec_accepted {i : Instr} {s : State} (hi : i.wf = true) (h : acceptedIn i s.blk.phase = true) :
    exec i s = .next (s.setBlk (effectOf i s.blk)) := by
  rcases exec_cases i hi s with ⟨_, e⟩ | ⟨h', _⟩ | ⟨h', _⟩
  · exact e
  · rw [h] at h'; cases h'
  · rw [h] at h'; cases h'

/-- ABSORB where M then holds a block (R102). -/
theorem Block.absorb_forms_block {n : Nat} {b : Block} (h : 64 ≤ b.M.length + n) :
    b.absorb n = ({ b with
      M := (b.M ++ msgBytes b.DATA_IN n).drop 64
      BITLEN := b.BITLEN + BitVec.ofNat 64 (8 * n) } : Block).blockStart
        ((b.M ++ msgBytes b.DATA_IN n).take 64) .TO_OPEN := by
  simp only [Block.absorb, List.length_append, msgBytes_length]; rw [if_pos h]

/-- ABSORB where M then holds less than a block (R102). -/
theorem Block.absorb_appends {n : Nat} {b : Block} (h : ¬ 64 ≤ b.M.length + n) :
    b.absorb n = ({ b with
      M := b.M ++ msgBytes b.DATA_IN n
      BITLEN := b.BITLEN + BitVec.ofNat 64 (8 * n) } : Block) := by
  simp only [Block.absorb, List.length_append, msgBytes_length]; rw [if_neg h]

/-- FINISH with one padding block (R103). -/
theorem Block.finish_one {b : Block} (h : b.M.length ≤ 55) :
    b.finish = ({ b with M := [] } : Block).blockStart (finalBlockSingle b.M b.BITLEN) .TO_DONE := if_pos h

/-- FINISH with two padding blocks (R103). -/
theorem Block.finish_two {b : Block} (h : ¬ b.M.length ≤ 55) :
    b.finish = ({ b with M := [] } : Block).blockStart (finalBlockFirst b.M) .TO_PAD2 := if_neg h

end Sys2Proof.Machine
end

