-- ==== Sys2Proof/Laws/Engine.lean ====
section
/-! SUPPORT. The engine's step, form by form, and how counts of engine steps add up. -/

namespace Sys2Proof.Machine

theorem Block.rnd_eq_last {b : Block} (h : ¬ b.rnd.val < 64) : b.rnd = 64 := by
  have := b.rnd.isLt
  apply Fin.ext; show b.rnd.val = 64; omega

/-- Everything the engine's step can do (44_round_loop.md R196, R197). -/
theorem Block.engineStep_cases (b : Block) :
    (∃ h : b.rnd.val < 64, b.engineStep = b.roundStep ⟨b.rnd.val, h⟩) ∨
    (b.rnd = 64 ∧ b.engineStep = b.accumulateStep) := by
  unfold Block.engineStep
  by_cases h : b.rnd.val < 64
  · exact .inl ⟨h, by rw [dif_pos h]⟩
  · exact .inr ⟨Block.rnd_eq_last h, by rw [dif_neg h]⟩

theorem Block.engineSteps_add (a c : Nat) (b : Block) :
    Block.engineSteps (a + c) b = Block.engineSteps c (Block.engineSteps a b) := by
  induction a generalizing b with
  | zero => simp [Block.engineSteps]
  | succ a ih => rw [show a + 1 + c = (a + c) + 1 by omega]; exact ih _

end Sys2Proof.Machine
end

