-- ==== Sys2Proof/Laws/PerInstr.lean ====
section
/-! SUPPORT. What holds of every command as syntax: its word matches its row of the opcode map (30_encoding.md R85). -/

namespace Sys2Proof.Laws.OpcodeRow

/-- The word of a well-formed command matches the command's own row. -/
def Statement (i : Instr) : Prop := i.wf = true → encode i &&& i.rowMask = i.rowMatch

theorem init : Statement .init := fun _ => by decide

theorem absorb (n : Nat) : Statement (.absorb n) := by
  intro h
  simp only [Instr.wf, Bool.and_eq_true, decide_eq_true_eq] at h
  obtain ⟨h1, h4⟩ := h
  interval_cases n <;> decide

theorem finish : Statement .finish := fun _ => by decide

end Sys2Proof.Laws.OpcodeRow
end

