-- ==== Sys2Proof/Laws/Step.lean ====
section
/-! SUPPORT. The inversion lemma of the step: everything one step can do to the machine. Every invariant and every
whole-machine rule follows from it without unfolding the step. -/

namespace Sys2Proof.Machine

/-- What the next step is about: exactly one of the engine's step, a reset step, an accepted command, or none of these. -/
structure State.Kind (s : State) (engine reset : Bool) (cmd : Option Instr) : Prop where
  engine : s.nextIsEngine = engine
  reset : s.nextIsReset = reset
  cmd : s.nextAccepted = cmd

/-- Everything one step can do. -/
inductive StepMove (s : State) : State → Prop
  /-- The engine takes its step (44_round_loop.md R196, R197). -/
  | engine {t : State} : s.Kind true false none → s.blk.phase = .RUN → s.rst = false →
      t = (s.setTurns s.turns.tail).setBlk s.blk.engineStep → StepMove s t
  /-- The host drives `rst` high (70_reset_and_hazards.md R270). -/
  | reset {t : State} {ops : List HostOp} : s.Kind false true none → s.host = .rst true :: ops →
      t = ((s.setTurns s.turns.tail).setHost ops).resetStep → StepMove s t
  /-- The host's command is performed (40_host_commands.md R101 to R103). -/
  | command {t : State} {i : Instr} {ops : List HostOp} {op : HostOp} : s.Kind false false (some i) → i.wf = true →
      s.rst = false → acceptedIn i s.blk.phase = true → s.host = op :: ops →
      t = ((s.setTurns s.turns.tail).setHost ops).setBlk (effectOf i s.blk) → StepMove s t
  /-- The host's command is rejected (60_exceptions.md R242 to R247). -/
  | rejected {t : State} {c : ErrCode} {ops : List HostOp} {op : HostOp} {v : Word} : s.Kind false false none →
      s.rst = false → s.nextCtrlWord = some v → c ≠ .NONE → s.host = op :: ops →
      t = ((s.setTurns s.turns.tail).setHost ops).raiseError c → StepMove s t
  /-- The host writes DATA_IN (40_host_commands.md R104). -/
  | dataIn {t : State} {v : Word} {ops : List HostOp} {op : HostOp} : s.Kind false false none → s.rst = false →
      s.nextWrite = some (0x08, v) → s.host = op :: ops →
      t = ((s.setTurns s.turns.tail).setHost ops).setBlk { s.blk with DATA_IN := v } → StepMove s t
  /-- The block keeps its state: a read, a poll, a write that is ignored, `rst` released, or a turn that passes. -/
  | quiet {t : State} : s.Kind false false none → t.blk = s.blk → (t.rst = s.rst ∨ t.rst = false) →
      t.draws = s.draws → t.turns = s.turns.tail → StepMove s t

theorem nextAccepted_of_ctrlWord {s : State} {v : Word} {i : Instr} (h : s.nextCtrlWord = some v)
    (hd : decode v = .ok i) : s.nextAccepted = if acceptedIn i s.blk.phase then some i else none := by
  simp [State.nextAccepted, h, hd]

theorem nextAccepted_of_illegal {s : State} {v : Word} {e : IllegalWord} (h : s.nextCtrlWord = some v)
    (hd : decode v = .error e) : s.nextAccepted = none := by
  simp [State.nextAccepted, h, hd]

theorem nextAccepted_of_none {s : State} (h : s.nextCtrlWord = none) : s.nextAccepted = none := by
  simp [State.nextAccepted, h]

/-- A step that answers a next state is one of the moves. -/
theorem step_moves {s t : State} (h : step s = .next t) : StepMove s t := by
  unfold step machineStep turnOf at h
  cases ha : s.nextAgent with
  | engine =>
    rw [ha] at h
    simp only [Host.Outcome.next.injEq] at h
    have hc : s.nextCtrlWord = none := by simp [State.nextCtrlWord, State.nextWrite, ha]
    have hr : s.nextIsReset = false := by simp [State.nextIsReset, ha]
    unfold engineTurn at h
    by_cases he : s.engineEnabled = true
    · have he' : (s.setTurns s.turns.tail).engineEnabled = true := he
      rw [if_pos he'] at h
      have hk : s.nextIsEngine = true := by simp [State.nextIsEngine, ha, he]
      simp [State.engineEnabled, Block.engineEnabled] at he
      exact .engine ⟨hk, hr, nextAccepted_of_none hc⟩ he.2 he.1 h.symm
    · have he' : ¬ (s.setTurns s.turns.tail).engineEnabled = true := he
      rw [if_neg he'] at h
      subst h
      refine .quiet ⟨?_, hr, nextAccepted_of_none hc⟩ rfl (.inl rfl) rfl rfl
      simp [State.nextIsEngine, he]
  | host =>
    rw [ha] at h
    simp only at h
    have hk : s.nextIsEngine = false := by simp [State.nextIsEngine, ha]
    unfold hostTurn at h
    cases hh : s.host with
    | nil =>
      rw [State.setTurns_host, hh] at h
      simp only [Host.Outcome.next.injEq] at h
      subst h
      exact .quiet ⟨hk, by simp [State.nextIsReset, ha, hh],
        nextAccepted_of_none (by simp [State.nextCtrlWord, State.nextWrite, ha, hh])⟩ rfl (.inl rfl) rfl rfl
    | cons op ops =>
      rw [State.setTurns_host, hh] at h
      simp only at h
      cases op with
      | read a size =>
        have hr : s.nextIsReset = false := by simp [State.nextIsReset, ha, hh]
        have hc : s.nextCtrlWord = none := by simp [State.nextCtrlWord, State.nextWrite, ha, hh]
        simp only [hostOp] at h
        split at h
        · cases h; exact .quiet ⟨hk, hr, nextAccepted_of_none hc⟩ rfl (.inl rfl) rfl rfl
        · cases h
      | wait =>
        have hr : s.nextIsReset = false := by simp [State.nextIsReset, ha, hh]
        have hc : s.nextCtrlWord = none := by simp [State.nextCtrlWord, State.nextWrite, ha, hh]
        simp only [hostOp, Host.Outcome.next.injEq] at h
        split at h <;> subst h <;> exact .quiet ⟨hk, hr, nextAccepted_of_none hc⟩ rfl (.inl rfl) rfl rfl
      | rst level =>
        have hc : s.nextCtrlWord = none := by simp [State.nextCtrlWord, State.nextWrite, ha, hh]
        cases level with
        | true =>
          simp only [hostOp, Host.Outcome.next.injEq] at h
          exact .reset ⟨hk, by simp [State.nextIsReset, ha, hh], nextAccepted_of_none hc⟩ hh h.symm
        | false =>
          simp only [hostOp, Host.Outcome.next.injEq] at h
          subst h
          exact .quiet ⟨hk, by simp [State.nextIsReset, ha, hh], nextAccepted_of_none hc⟩ rfl (.inr rfl) rfl rfl
      | write a size v =>
        have hr : s.nextIsReset = false := by simp [State.nextIsReset, ha, hh]
        simp only [hostOp] at h
        cases hb : busOffset a size with
        | error r => rw [hb] at h; cases h
        | ok off =>
          rw [hb] at h
          simp only at h
          rcases memWrite_cases off v ((s.setTurns s.turns.tail).setHost ops) with
            ⟨hrst, e⟩ | ⟨hrst, ho, e⟩ | ⟨hrst, ho, e⟩ | ⟨hrst, h0, _, e⟩ <;> rw [e] at h
          · cases h
            have hc : s.nextCtrlWord = none := by
              simp only [State.setHost_rst, State.setTurns_rst] at hrst
              simp [State.nextCtrlWord, State.nextWrite, ha, hrst]
            exact .quiet ⟨hk, hr, nextAccepted_of_none hc⟩ rfl (.inl rfl) rfl rfl
          · have hrst' : s.rst = false := by simpa using hrst
            subst ho
            have hc : s.nextCtrlWord = some v := by simp [State.nextCtrlWord, State.nextWrite, ha, hrst', hh, hb]
            rcases ctrlWrite_cases v ((s.setTurns s.turns.tail).setHost ops) with ⟨ee, hd, e'⟩ | ⟨i, hd, hw, e'⟩
            · rw [e'] at h
              cases h
              exact .rejected (c := .ILLEGAL) ⟨hk, hr, nextAccepted_of_illegal hc hd⟩ hrst' hc (by simp) hh rfl
            · rw [e'] at h
              have hn := nextAccepted_of_ctrlWord hc hd
              rcases exec_cases i hw ((s.setTurns s.turns.tail).setHost ops) with
                ⟨hacc, e''⟩ | ⟨hacc, _, e''⟩ | ⟨hacc, _, e''⟩ <;> rw [e''] at h <;> cases h
              · have hacc' : acceptedIn i s.blk.phase = true := hacc
                exact .command ⟨hk, hr, by rw [hn, if_pos hacc']⟩ hw hrst' hacc' hh rfl
              · have hacc' : ¬ acceptedIn i s.blk.phase = true := by simpa using hacc
                exact .rejected (c := .BUSY) ⟨hk, hr, by rw [hn, if_neg hacc']⟩ hrst' hc (by simp) hh rfl
              · have hacc' : ¬ acceptedIn i s.blk.phase = true := by simpa using hacc
                exact .rejected (c := .SEQUENCE) ⟨hk, hr, by rw [hn, if_neg hacc']⟩ hrst' hc (by simp) hh rfl
          · cases h
            subst ho
            have hrst' : s.rst = false := by simpa using hrst
            have hw : s.nextWrite = some (0x08, v) := by simp [State.nextWrite, ha, hrst', hh, hb]
            have hc : s.nextCtrlWord = none := by simp [State.nextCtrlWord, hw]
            exact .dataIn ⟨hk, hr, nextAccepted_of_none hc⟩ hrst' hw hh rfl
          · cases h
            have hrst' : s.rst = false := by simpa using hrst
            have hc : s.nextCtrlWord = none := by
              have hw : s.nextWrite = some (off, v) := by simp [State.nextWrite, ha, hrst', hh, hb]
              simp only [State.nextCtrlWord, hw]
              split
              · rename_i heq; simp_all
              · rfl
            exact .quiet ⟨hk, hr, nextAccepted_of_none hc⟩ rfl (.inl rfl) rfl rfl

end Sys2Proof.Machine
end

