-- ==== Sys2Proof/Laws/Run.lean ====
section
/-! SUPPORT. The step of the agent that moves, and runs of several steps. -/

namespace Sys2Proof.Machine

/-- The host's step on its next operation. -/
theorem step_host {s : State} (h : s.nextAgent = .host) {op : HostOp} {ops : List HostOp} (hh : s.host = op :: ops) :
    step s = hostOp op ((s.setTurns s.turns.tail).setHost ops) := by
  unfold step machineStep turnOf
  rw [h]; simp only [hostTurn, State.setTurns_host, hh]

/-- The step in which the host writes a word to CTRL (40_host_commands.md R100). -/
theorem step_ctrlWrite {s : State} {v : Word} (h : s.nextCtrlWord = some v) :
    step s = ctrlWrite v ((s.setTurns s.turns.tail).setHost s.host.tail) := by
  unfold State.nextCtrlWord at h
  split at h
  · rename_i w hw
    cases h
    unfold State.nextWrite at hw
    split at hw
    · rename_i a size v' ops ha hr hh
      cases hb : busOffset a size with
      | error e => simp [hb] at hw
      | ok off =>
        simp only [hb, Option.some.injEq, Prod.mk.injEq] at hw
        obtain ⟨rfl, rfl⟩ := hw
        rw [step_host ha hh]
        simp only [hostOp, hb, memWrite, State.setHost_rst, State.setTurns_rst, hr, hh]
        simp
    · cases hw
  · cases h

/-- The engine's step. -/
theorem step_engine {s : State} (h : s.nextIsEngine = true) :
    step s = .next ((s.setTurns s.turns.tail).setBlk s.blk.engineStep) := by
  simp [State.nextIsEngine] at h
  unfold step machineStep turnOf
  rw [h.1]; simp only [engineTurn]
  rw [if_pos (by exact h.2)]
  rfl

theorem nextIsEngine_of_run {s : State} (ha : s.nextAgent = .engine) (hr : s.rst = false) (hp : s.blk.phase = .RUN) :
    s.nextIsEngine = true := by
  simp [State.nextIsEngine, ha, State.engineEnabled, hr, Block.engineEnabled, hp]

theorem core_run_next {M : Host.Core} (k : Nat) {s t : M.State} (h : M.step s = .next t) :
    M.run (k + 1) s = M.run k t := by
  rw [Host.Core.run.eq_def]; simp only [h]

theorem core_run_refused {M : Host.Core} (k : Nat) {s : M.State} {r : M.Refusal} (h : M.step s = .refused r) :
    M.run (k + 1) s = .refused r := by
  rw [Host.Core.run.eq_def]; simp only [h]

theorem run_zero (s : State) : run 0 s = .next s := rfl

theorem run_succ_next (k : Nat) {s t : State} (h : step s = .next t) : run (k + 1) s = run k t :=
  core_run_next (M := Sys2Proof.core) k h

theorem run_succ_refused (k : Nat) {s : State} {r : Refusal} (h : step s = .refused r) :
    run (k + 1) s = .refused r :=
  core_run_refused (M := Sys2Proof.core) k h

/-- A run is the run of its first part and then of the rest. -/
theorem run_trans {a b : Nat} {s t : State} {o : Host.Outcome State Fault Refusal} (h : run a s = .next t)
    (h' : run b t = o) : run (a + b) s = o := by
  induction a generalizing s with
  | zero =>
    rw [run_zero] at h; cases h
    rw [Nat.zero_add]; exact h'
  | succ a ih =>
    rw [show a + 1 + b = (a + b) + 1 by omega]
    cases hs : step s with
    | next u => rw [run_succ_next _ hs] at h ⊢; exact ih h
    | fault r => cases r
    | refused r => rw [run_succ_refused _ hs] at h; cases h

end Sys2Proof.Machine
end

