-- ==== Sys2Proof/Tests/Slice0.lean ====
section
/-! SUPPORT. Tests, with results taken from spec/95_test_vectors.md (its section is named at each group), and for every
statement with hypotheses a concrete state that meets them, clause by clause. -/

set_option Elab.async false

namespace Sys2Proof.Tests

open Sys2Proof Sys2Proof.Machine

/-! ### WellFormed: each check with a term it refuses (30_encoding.md R82, R92) -/

theorem test_wf_absorb_0_refused : (Instr.absorb 0).wf = false := by decide
theorem test_wf_absorb_5_refused : (Instr.absorb 5).wf = false := by decide
theorem test_wf_accepts : Instr.init.wf = true ∧ (Instr.absorb 1).wf = true ∧ (Instr.absorb 4).wf = true ∧
    Instr.finish.wf = true := by decide

/-! ### Decoding, each word written out bit by bit: RSV[31:6], NB[5:4], CMD[3:0] (section 2.1) -/

theorem test_decode_init : decode 0b00000000000000000000000000_00_0001 = .ok .init := by rfl
theorem test_decode_absorb_1 : decode 0b00000000000000000000000000_00_0010 = .ok (.absorb 1) := by rfl
theorem test_decode_absorb_2 : decode 0b00000000000000000000000000_01_0010 = .ok (.absorb 2) := by rfl
theorem test_decode_absorb_3 : decode 0b00000000000000000000000000_10_0010 = .ok (.absorb 3) := by rfl
theorem test_decode_absorb_4 : decode 0b00000000000000000000000000_11_0010 = .ok (.absorb 4) := by rfl
theorem test_decode_finish : decode 0b00000000000000000000000000_00_0011 = .ok .finish := by rfl

/-- The illegal words of section 2.1. -/
theorem test_decode_illegal : [0x00000000, 0x00000004, 0x0000000F, 0x00000011, 0x00000031, 0x00000013, 0x00000033,
    0x0000003F, 0x00000040, 0x00000042, 0x80000001, 0xFFFFFFFF].all (fun w => (decode w).toOption.isNone) = true := by
  decide +kernel

theorem test_encode : encode .init = 0x00000001 ∧ encode (.absorb 3) = 0x00000022 ∧ encode (.absorb 4) = 0x00000032 ∧
    encode .finish = 0x00000003 := by decide

theorem test_decodeTableWord : decodeTableWord 32 0x22 = some (.absorb 3) ∧ decodeTableWord 32 0x11 = none := by decide

/-! ### Word arithmetic, tables, padding (sections 2.2 to 2.5, 2.8) -/

theorem test_add32_carry_lost : add32 0xffffffff 0x00000001 = 0x00000000 := by decide
theorem test_rotl32_largest_amount : rotl32 0x12345678 (S 35) = 0x3c091a2b := by decide
theorem test_rotl32_both_ends : rotl32 0x80000001 (S 1) = 0x00001800 := by decide
theorem test_mixing_iv : Fq 0 IV.B IV.C IV.D = 0x98badcfe ∧ Fq 1 IV.B IV.C IV.D = 0x88888888 ∧
    Fq 2 IV.B IV.C IV.D = 0x67452301 ∧ Fq 3 IV.B IV.C IV.D = 0x77777777 := by decide
theorem test_mixing_only_d : Fq 0 0 0 0xffffffff = 0xffffffff ∧ Fq 1 0 0 0xffffffff = 0x00000000 ∧
    Fq 2 0 0 0xffffffff = 0xffffffff ∧ Fq 3 0 0 0xffffffff = 0x00000000 := by decide
theorem test_rom_spots : K 15 = 0x49b40821 ∧ K 16 = 0xf61e2562 ∧ K 47 = 0xc4ac5665 ∧ K 63 = 0xeb86d391 ∧
    (S 18).val = 14 ∧ (S 51).val = 21 ∧ g 17 = 6 ∧ g 31 = 12 ∧ g 47 = 2 ∧ g 63 = 9 := by decide
theorem test_pad_abc : blockWords (pad [0x61, 0x62, 0x63]) =
    #v[0x80636261, 0, 0, 0, 0, 0, 0, 0, 0, 0, 0, 0, 0, 0, 0x18, 0] := by decide
theorem test_pad_lengths : (pad (List.replicate 55 0x61)).length = 64 ∧ (pad (List.replicate 56 0x61)).length = 128 ∧
    (pad (List.replicate 119 0x61)).length = 128 ∧ (pad (List.replicate 120 0x61)).length = 192 := by decide +kernel
theorem test_digest_assembly : digestBytes ⟨0x98500190, 0xb04fd23c, 0x7d3f96d6, 0x727fe128⟩ =
    [0x90, 0x01, 0x50, 0x98, 0x3c, 0xd2, 0x4f, 0xb0, 0xd6, 0x96, 0x3f, 0x7d, 0x28, 0xe1, 0x7f, 0x72] := by decide

/-- Section 2.6, round 0 of the empty message's block. -/
theorem test_round_0 : roundFn (blockWords (pad [])) IV 0 =
    ⟨0x10325476, 0xa5202774, 0xefcdab89, 0x98badcfe⟩ := by decide +kernel

/-- V1 (section 1.1). -/
theorem test_md5_empty : hexDigest (MD5 []) = "d41d8cd98f00b204e9800998ecf8427e".toList := by decide +kernel

/-- V3 (section 1.1). -/
theorem test_md5_abc : hexDigest (MD5 [0x61, 0x62, 0x63]) = "900150983cd24fb0d6963f7d28e17f72".toList := by
  decide +kernel

/-- 56 bytes of 'a' (section 1.3): two padding blocks. -/
theorem test_md5_56 : hexDigest (MD5 (List.replicate 56 0x61)) = "3b0c8ac703f828b04c6c197006d17218".toList := by
  decide +kernel

/-! ### Small states -/

/-- A machine with this block, these turns and these host operations, `rst` low. -/
def mach (b : Block) (ts : List Agent) (ops : List HostOp) : State :=
  { State.reset with blk := b, turns := ts, host := ops }

/-- The block in its reset state. -/
def idleB : Block := State.reset.blk

/-- An open message of these bytes, with this word in DATA_IN. -/
def openB (m : List Byte) (d : Word) : Block :=
  { idleB.openMessage with M := m, BITLEN := BitVec.ofNat 64 (8 * m.length), DATA_IN := d }

/-- A run at round r, to end as given. -/
def runB (r : Fin 65) (nxt : RunNext) : Block := { (openB [] 0).blockStart (pad []) nxt with rnd := r }

/-- A finished message. -/
def doneB : Block := { openB [] 0 with phase := .DONE }

/-- n bytes of 'a'. -/
def as (n : Nat) : List Byte := List.replicate n 0x61

/-- Write a command. -/
def cmd (w : Word) : HostOp := .write (.offset 0x00) 4 w

/-- The machine after k steps, or where it stops. -/
def advance : Nat → State → State
  | 0, s => s
  | k + 1, s =>
    match step s with
    | .next t => advance k t
    | _ => s

/-! ### Commands and errors (section 2.9), one step each -/

theorem test_init_from_reset : ∃ t, step (State.reset.withFetchWord 32 0x1) = .next t ∧ t.blk.STATUS = 0x00000004 ∧
    t.blk.BITLEN = 0 := ⟨_, rfl, by decide⟩

theorem test_init_clears_error : ∃ t, exec .init (mach { openB [] 0 with ERRCODE := .ILLEGAL } [] []) = .next t ∧
    t.blk.STATUS = 0x00000004 := ⟨_, rfl, by decide⟩

theorem test_absorb_in_idle_is_sequence : ∃ t, step (State.reset.withFetchWord 32 0x2) = .next t ∧
    t.blk.STATUS = 0x00000038 ∧ t.blk.M = [] := ⟨_, rfl, by decide⟩

theorem test_absorb_crosses_a_block : ∃ t, exec (.absorb 4) (mach (openB (as 62) 0x64636261) [] []) = .next t ∧
    t.blk.STATUS = 0x00000201 ∧ t.blk.M = [0x63, 0x64] ∧ t.memRead 0x10 = 0x210 ∧ t.blk.X.get 15 = 0x62616161 :=
  ⟨_, rfl, by decide⟩

theorem test_finish_in_run_is_busy : ∃ t, exec .finish (mach (runB 7 .TO_DONE) [] []) = .next t ∧
    t.blk.STATUS = 0x00000029 := ⟨_, rfl, by decide⟩

theorem test_finish_in_done_is_sequence : ∃ t, exec .finish (mach doneB [] []) = .next t ∧ t.blk.STATUS = 0x0000003a :=
  ⟨_, rfl, by decide⟩

/-- ILLEGAL goes before BUSY (R246). -/
theorem test_illegal_in_run : ∃ t, ctrlWrite 0x13 (mach (runB 7 .TO_DONE) [] []) = .next t ∧ t.blk.STATUS = 0x00000019 :=
  ⟨_, rfl, by decide⟩

/-- The first error is kept (R245). -/
theorem test_error_is_sticky : ∃ t, ctrlWrite 0x11 (mach { idleB with ERRCODE := .SEQUENCE } [] []) = .next t ∧
    t.blk.STATUS = 0x00000038 := ⟨_, rfl, by decide⟩

/-- The last accumulate step of the empty message's block (section 2.6): the working state after round 63, plus IV. -/
theorem test_accumulate : ∃ t, step (mach { runB 64 .TO_DONE with
      A := 0x7246fad3, B := 0x14e45506, C := 0xff4ea3eb, D := 0x6e10a476 } [.engine] []) = .next t ∧
    t.memRead 0x20 = 0xd98c1dd4 ∧ t.memRead 0x2C = 0x7e42f8ec := ⟨_, rfl, by decide⟩

/-! ### Witnesses: the hypotheses of each statement, met by concrete states -/

/-- The host's next transaction is a write of this word to CTRL, in a block. -/
def wr (b : Block) (w : Word) : State := mach b [.host] [cmd w]

/-- The host drives `rst` high, with the block in RUN. -/
def resetting : State := mach (runB 3 .TO_DONE) [.host] [.rst true]

/-- The block held in reset, the host writing INIT. -/
def heldS : State := { wr idleB 0x1 with rst := true }

/-- The engine's turn in a run. -/
def eng (r : Fin 65) (nxt : RunNext) : State := mach (runB r nxt) [.engine] []

theorem witness_ResetStepFromEveryState : resetting.nextAgent = .host ∧ resetting.host = .rst true :: [] := by decide

theorem witness_BlockHeldWhileRstHigh : heldS.rst = true ∧ (∃ t, step heldS = .next t ∧ t.blk = heldS.blk) ∧
    ({ resetting with rst := true }.nextIsReset = true) ∧
    (∃ t, step { resetting with rst := true } = .next t ∧ t.blk.phase ≠ .RUN) ∧
    (mach idleB [.host] [.rst false]).nextAgent = .host ∧ (mach idleB [.host] [.rst false]).host = [.rst false] :=
  ⟨rfl, ⟨_, rfl, by decide⟩, by decide, ⟨_, rfl, by decide⟩, by decide, by decide⟩

theorem witness_ResetMeetsInvariant : State.reset.blk = Block.atReset Unspecified.zeros := rfl

theorem inv_openB62 : (openB (as 62) 0x64636261).Inv :=
  ⟨by decide, by decide, by decide, by decide, by decide, by decide, by decide, by decide⟩

theorem inv_runB (r : Fin 65) (nxt : RunNext) : (runB r nxt).Inv :=
  ⟨fun h => absurd rfl h, fun _ => Nat.zero_le _, fun h => (nomatch h), fun h => (nomatch h), fun h => (nomatch h),
    fun _ _ => (by decide : ([] : List Byte).length = (BitVec.ofNat 64 (8 * 0)).toNat / 8 % 64), fun _ _ => rfl,
    (by decide : (BitVec.ofNat 64 (8 * 0)).toNat % 8 = 0)⟩

theorem witness_StepKeepsInvariant :
    ((wr (openB (as 62) 0x64636261) 0x32).Inv ∧ ∃ t, step (wr (openB (as 62) 0x64636261) 0x32) = .next t ∧ t.blk.phase = .RUN) ∧
    (eng 64 .TO_PAD2).Inv ∧ ∃ t, step (eng 64 .TO_PAD2) = .next t ∧ t.blk.run_next = .TO_DONE :=
  ⟨⟨⟨inv_openB62, fun h => (nomatch h)⟩, _, rfl, by decide⟩, ⟨inv_runB _ _, fun h => (nomatch h)⟩, _, rfl, by decide⟩

/-- Every step of these gives a next state. -/
def goes : Nat → State → Bool
  | 0, _ => true
  | k + 1, s =>
    match step s with
    | .next t => goes k t
    | _ => false

theorem reachable_advance {s : State} (h : Reachable s) (k : Nat) : Reachable (advance k s) := by
  induction k generalizing s with
  | zero => exact h
  | succ k ih =>
    cases hs : step s with
    | next t => simp only [advance, hs]; exact ih (.step h hs)
    | fault r => simp only [advance, hs]; exact h
    | refused r => simp only [advance, hs]; exact h

theorem delivered_reachable {s : State} {m : List Byte} {fin : Bool} (h : Delivered s m fin) : Reachable s := by
  induction h with
  | opened h _ hs => exact .step h hs
  | absorbed _ _ hs ih => exact .step ih hs
  | finished _ _ hs ih => exact .step ih hs
  | other _ _ _ hs ih => exact .step ih hs

/-- The rounds of a run leave its sequencing alone. -/
theorem rounds_frame (k : Nat) (b : Block) (h : b.rnd.val + k ≤ 64) : (Block.engineSteps k b).rnd.val = b.rnd.val + k ∧
    (Block.engineSteps k b).phase = b.phase ∧ (Block.engineSteps k b).run_next = b.run_next ∧
    (Block.engineSteps k b).ERRCODE = b.ERRCODE ∧ (Block.engineSteps k b).M = b.M ∧
    (Block.engineSteps k b).DATA_IN = b.DATA_IN := by
  induction k generalizing b with
  | zero => simp [Block.engineSteps]
  | succ k ih =>
    have e : b.engineStep = b.roundStep ⟨b.rnd.val, by omega⟩ := by
      rcases b.engineStep_cases with ⟨_, e⟩ | ⟨h64, _⟩
      · exact e
      · rw [h64] at h; exact absurd h (by simp)
    have hr : (b.roundStep ⟨b.rnd.val, by omega⟩).rnd.val = b.rnd.val + 1 := by simp
    obtain ⟨h1, h2, h3, h4, h5, h6⟩ := ih (b.roundStep ⟨b.rnd.val, by omega⟩) (by rw [hr]; omega)
    simp only [Block.engineSteps, e]
    exact ⟨by rw [h1, hr]; omega, h2, h3, h4, h5, h6⟩

/-- With no turns given a run's engine steps come first, and they deliver nothing new. -/
theorem delivered_engine {s : State} {m : List Byte} {fin : Bool} (h : Delivered s m fin) (hr : s.rst = false)
    (ht : s.turns = []) (hp : s.blk.phase = .RUN) (k : Nat) (hk : s.blk.rnd.val + k ≤ 65) :
    Delivered (s.setBlk (Block.engineSteps k s.blk)) m fin := by
  induction k with
  | zero => exact h
  | succ k ih =>
    have hph : (Block.engineSteps k s.blk).phase = .RUN := (rounds_frame k s.blk (by omega)).2.1.trans hp
    have hn : (s.setBlk (Block.engineSteps k s.blk)).nextAgent = .engine := by
      simp [State.nextAgent, ht, State.engineEnabled, Block.engineEnabled, hr, hph]
    have hstep := step_engine (nextIsEngine_of_run hn hr hph)
    refine Delivered.other (ih (by omega)) ?_ ?_ (hstep.trans ?_)
    · simp [State.nextAccepted, State.nextCtrlWord, State.nextWrite, hn]
    · simp [State.nextIsReset, hn]
    · rw [Block.engineSteps_add k 1]
      simp [State.ext_iff, ht, Block.engineSteps]

/-- The host hashes the one byte 'a': INIT, ABSORB 1, FINISH, with nothing polled. -/
def hashA : State := (State.reset.setHost [cmd 0x1, .write (.offset 0x08) 4 0x61, cmd 0x2, cmd 0x3]).setTurns []

theorem hashA_reachable (k : Nat) : Reachable (advance k hashA) := reachable_advance (.reset _ _) k

theorem step_advance (k : Nat) (s : State) (h : goes (k + 1) s = true) : step (advance k s) = .next (advance (k + 1) s) := by
  induction k generalizing s with
  | zero =>
    cases hs : step s with
    | next t => simp only [advance, hs]
    | fault r => cases r
    | refused r => simp [goes, hs] at h
  | succ k ih =>
    cases hs : step s with
    | next t =>
      rw [goes, hs] at h
      have := ih t h
      simp only [advance, hs] at this ⊢
      exact this
    | fault r => cases r
    | refused r => simp [goes, hs] at h

theorem hashA_goes : goes 1 hashA = true ∧ goes 2 hashA = true ∧ goes 3 hashA = true ∧ goes 4 hashA = true := by
  decide +kernel

theorem hashA_step_1 : step (advance 0 hashA) = .next (advance 1 hashA) := step_advance 0 hashA hashA_goes.1
theorem hashA_step_2 : step (advance 1 hashA) = .next (advance 2 hashA) := step_advance 1 hashA hashA_goes.2.1
theorem hashA_step_3 : step (advance 2 hashA) = .next (advance 3 hashA) := step_advance 2 hashA hashA_goes.2.2.1
theorem hashA_step_4 : step (advance 3 hashA) = .next (advance 4 hashA) := step_advance 3 hashA hashA_goes.2.2.2

theorem hashA_commands : (advance 0 hashA).nextAccepted = some .init ∧ (advance 1 hashA).nextAccepted = none ∧
    (advance 1 hashA).nextIsReset = false ∧ (advance 2 hashA).nextAccepted = some (.absorb 1) ∧
    [] ++ msgBytes (advance 2 hashA).blk.DATA_IN 1 = [0x61] ∧ (advance 3 hashA).nextAccepted = some .finish := by
  decide +kernel

/-- INIT accepted. -/
theorem hashA_opened : Delivered (advance 1 hashA) [] false :=
  Delivered.opened (hashA_reachable 0) hashA_commands.1 hashA_step_1

/-- DATA_IN written. -/
theorem hashA_staged : Delivered (advance 2 hashA) [] false :=
  Delivered.other hashA_opened hashA_commands.2.1 hashA_commands.2.2.1 hashA_step_2

/-- ABSORB 1 accepted. -/
theorem hashA_absorbed : Delivered (advance 3 hashA) [0x61] false := by
  have h := Delivered.absorbed hashA_staged hashA_commands.2.2.2.1 hashA_step_3
  rwa [hashA_commands.2.2.2.2.1] at h

/-- FINISH accepted. -/
theorem hashA_finished : Delivered (advance 4 hashA) [0x61] true :=
  Delivered.finished hashA_absorbed hashA_commands.2.2.2.2.2 hashA_step_4

theorem hashA_running : (advance 4 hashA).rst = false ∧ (advance 4 hashA).turns = [] ∧
    (advance 4 hashA).blk.phase = .RUN ∧ (advance 4 hashA).blk.rnd = 0 ∧ (advance 4 hashA).blk.run_next = .TO_DONE ∧
    (advance 4 hashA).blk.ERRCODE = .NONE := by decide +kernel

theorem witness_FinishedMessageReachesDone : Delivered (advance 4 hashA) [0x61] true ∧
    (advance 4 hashA).host.all HostOp.plain = true := ⟨hashA_finished, by decide +kernel⟩

/-! A message of 68 bytes of 'a', past the first block boundary: DATA_IN is written once and absorbed seventeen times. -/

/-- A machine that has delivered n bytes of 'a', in OPEN, with no turns given and these operations to come. -/
structure At (s : State) (n : Nat) (ops : List HostOp) : Prop where
  del : Delivered s (as n) false
  rst : s.rst = false
  turns : s.turns = []
  phase : s.blk.phase = .OPEN
  data : s.blk.DATA_IN = 0x61616161
  err : s.blk.ERRCODE = .NONE
  fill : s.blk.M.length = n % 64
  host : s.host = ops

/-- The host's command is performed at once. -/
theorem At.command {s : State} {n : Nat} {ops : List HostOp} {w : Word} {i : Instr} (h : At s n (cmd w :: ops))
    (hd : decode w = .ok i) (ha : acceptedIn i .OPEN = true) :
    s.nextAccepted = some i ∧ step s = .next ((s.setHost ops).setBlk (effectOf i s.blk)) := by
  have hna : s.nextAgent = .host := by
    simp [State.nextAgent, h.turns, State.engineEnabled, Block.engineEnabled, h.phase]
  have hw : s.nextCtrlWord = some w := by
    simp only [State.nextCtrlWord, State.nextWrite, hna, h.rst, h.host, cmd,
      show busOffset (.offset 0x00) 4 = .ok 0x00 from rfl]
  refine ⟨by rw [nextAccepted_of_ctrlWord hw hd, h.phase, if_pos ha], ?_⟩
  have hs : (s.setTurns s.turns.tail).setHost s.host.tail = s.setHost ops := by
    simp [State.ext_iff, h.turns, h.host]
  rw [step_ctrlWrite hw, hs]
  have hp : acceptedIn i (s.setHost ops).blk.phase = true := by
    rw [State.setHost_blk, h.phase]; exact ha
  simp only [ctrlWrite, hd]
  rw [exec_accepted (decode_wf hd) hp]
  rfl

theorem as_append (n : Nat) (w : Word) (h : w = 0x61616161) : as n ++ msgBytes w 4 = as (n + 4) := by
  subst h
  rw [show msgBytes 0x61616161 4 = as 4 by decide]
  simp [as, List.replicate_add]

/-- One more ABSORB 4 below the block boundary. -/
theorem At.absorb {s : State} {n : Nat} {ops : List HostOp} (h : At s n (cmd 0x32 :: ops)) (hn : n % 64 + 4 < 64) :
    ∃ t, At t (n + 4) ops := by
  obtain ⟨ha, hs⟩ := h.command (i := .absorb 4) rfl rfl
  have hb : effectOf (.absorb 4) s.blk = _ := Block.absorb_appends (n := 4) (b := s.blk) (by rw [h.fill]; omega)
  refine ⟨(s.setHost ops).setBlk (effectOf (.absorb 4) s.blk), ?_, h.rst, h.turns, ?_, ?_, ?_, ?_, rfl⟩
  · have hd := Delivered.absorbed h.del ha hs
    rwa [as_append _ _ h.data] at hd
  all_goals simp only [State.setBlk_blk, hb]
  · exact h.phase
  · exact h.data
  · exact h.err
  · simp [h.fill]; omega

theorem At.absorbs {s : State} {n : Nat} {ops : List HostOp} (k : Nat)
    (h : At s n (List.replicate k (cmd 0x32) ++ ops)) (hn : n % 64 + 4 * k < 64) : ∃ t, At t (n + 4 * k) ops := by
  induction k generalizing s n with
  | zero => exact ⟨s, h⟩
  | succ k ih =>
    obtain ⟨t, ht⟩ := h.absorb (by omega)
    obtain ⟨u, hu⟩ := ih ht (by omega)
    exact ⟨u, by rwa [show n + 4 + 4 * k = n + 4 * (k + 1) by omega] at hu⟩

/-- The run of a delivered message, from its first engine step to its end. -/
theorem delivered_run {s : State} {m : List Byte} {fin : Bool} (h : Delivered s m fin) (hr : s.rst = false)
    (ht : s.turns = []) (hp : s.blk.phase = .RUN) (h0 : s.blk.rnd = 0) (hn : s.blk.run_next ≠ .TO_PAD2) :
    ∃ t, Delivered t m fin ∧ t.rst = false ∧ t.turns = [] ∧ t.host = s.host ∧ t.blk.ERRCODE = s.blk.ERRCODE ∧
      t.blk.phase = (if s.blk.run_next = .TO_OPEN then .OPEN else .DONE) ∧ t.blk.M = s.blk.M ∧
      t.blk.DATA_IN = s.blk.DATA_IN := by
  obtain ⟨f1, _, f3, f4, f5, f6⟩ := rounds_frame 64 s.blk (by rw [h0]; decide)
  have e : Block.engineSteps 65 s.blk = (Block.engineSteps 64 s.blk).accumulateStep := by
    rw [Block.engineSteps_add 64 1]
    rcases (Block.engineSteps 64 s.blk).engineStep_cases with ⟨hlt, _⟩ | ⟨_, e⟩
    · rw [f1, h0] at hlt; exact absurd hlt (by decide)
    · exact e
  have hd := delivered_engine h hr ht hp 65 (by rw [h0]; decide)
  rw [e] at hd
  refine ⟨_, hd, by rw [State.setBlk_rst, hr], by rw [State.setBlk_turns, ht], by rw [State.setBlk_host], ?_⟩
  cases hx : s.blk.run_next with
  | TO_PAD2 => exact absurd hx hn
  | TO_OPEN => simp [Block.accumulateStep, f3, f4, f5, f6, hx]
  | TO_DONE => simp [Block.accumulateStep, f3, f4, f5, f6, hx]

/-- The machine 65 engine steps after FINISH. -/
theorem hashA_done : ∃ t, Delivered t [0x61] true ∧ t.blk.phase = .DONE ∧ t.blk.ERRCODE = .NONE := by
  obtain ⟨h1, h2, h3, h4, h5, h6⟩ := hashA_running
  obtain ⟨t, g1, _, _, _, g5, g6, _⟩ := delivered_run hashA_finished h1 h2 h3 h4 (by rw [h5]; decide)
  exact ⟨t, g1, by rw [g6, h5]; rfl, g5.trans h6⟩

/-- The host's operations: INIT, DATA_IN, seventeen ABSORB 4, FINISH. -/
def hash68 : State := (State.reset.setHost ([cmd 0x1, .write (.offset 0x08) 4 0x61616161] ++
  List.replicate 15 (cmd 0x32) ++ [cmd 0x32, cmd 0x32, cmd 0x3])).setTurns []

theorem hash68_goes : goes 1 hash68 = true ∧ goes 2 hash68 = true := by decide +kernel

theorem hash68_start : (advance 0 hash68).nextAccepted = some .init ∧ (advance 1 hash68).nextAccepted = none ∧
    (advance 1 hash68).nextIsReset = false ∧ (advance 2 hash68).rst = false ∧ (advance 2 hash68).turns = [] ∧
    (advance 2 hash68).blk.phase = .OPEN ∧ (advance 2 hash68).blk.DATA_IN = 0x61616161 ∧
    (advance 2 hash68).blk.ERRCODE = .NONE ∧ (advance 2 hash68).blk.M.length = 0 % 64 ∧
    (advance 2 hash68).host = List.replicate 15 (cmd 0x32) ++ [cmd 0x32, cmd 0x32, cmd 0x3] := by
  decide +kernel

theorem hash68_step_1 : step (advance 0 hash68) = .next (advance 1 hash68) := step_advance 0 hash68 hash68_goes.1
theorem hash68_step_2 : step (advance 1 hash68) = .next (advance 2 hash68) := step_advance 1 hash68 hash68_goes.2

/-- DATA_IN written, nothing absorbed yet. -/
theorem hash68_staged : ∃ s, At s 0 (List.replicate 15 (cmd 0x32) ++ [cmd 0x32, cmd 0x32, cmd 0x3]) := by
  obtain ⟨h1, h2, h3, h4, h5, h6, h7, h8, h9, h10⟩ := hash68_start
  have hi : Delivered (advance 1 hash68) [] false :=
    Delivered.opened (reachable_advance (.reset _ _) 0) h1 hash68_step_1
  exact ⟨advance 2 hash68, Delivered.other hi h2 h3 hash68_step_2, h4, h5, h6, h7, h8, h9, h10⟩

/-- The sixteenth ABSORB 4 crosses the block boundary and starts a run. -/
theorem hash68_crossing : ∃ s t, Delivered s (as 60) false ∧ s.nextAccepted = some (.absorb 4) ∧ step s = .next t ∧
    t.blk.phase = .RUN ∧ ∃ u, At u 64 [cmd 0x32, cmd 0x3] := by
  obtain ⟨s0, h0⟩ := hash68_staged
  obtain ⟨s, h⟩ := At.absorbs 15 h0 (by decide)
  obtain ⟨ha, hs⟩ := h.command (i := .absorb 4) rfl rfl
  have hb : effectOf (.absorb 4) s.blk = _ := Block.absorb_forms_block (n := 4) (b := s.blk) (by have := h.fill; omega)
  have hd := Delivered.absorbed h.del ha hs
  rw [as_append _ _ h.data] at hd
  refine ⟨s, _, h.del, ha, hs, by rw [State.setBlk_blk, hb]; rfl, ?_⟩
  obtain ⟨u, g1, g2, g3, g4, g5, g6, g7, g8⟩ := delivered_run hd h.rst h.turns (by rw [State.setBlk_blk, hb]; rfl)
    (by rw [State.setBlk_blk, hb]; rfl) (by rw [State.setBlk_blk, hb]; simp)
  simp only [State.setBlk_blk, hb, Block.blockStart_run_next, if_true] at g5 g6 g7 g8
  refine ⟨u, g1, g2, g3, g6, g8.trans h.data, g5.trans h.err, ?_, g4⟩
  rw [g7]
  have hf := h.fill
  simp [hf]

theorem witness_OpenBlockHoldsTheMessageSoFar :
    (Delivered (advance 3 hashA) [0x61] false ∧ (advance 3 hashA).blk.phase = .OPEN) ∧
    (∃ s, Delivered s (as 64) false ∧ s.blk.phase = .OPEN) ∧ ∃ s, Delivered s (as 68) false ∧ s.blk.phase = .OPEN := by
  obtain ⟨_, _, _, _, _, _, u, hu⟩ := hash68_crossing
  obtain ⟨v, hv⟩ := hu.absorb (by decide)
  exact ⟨⟨hashA_absorbed, by decide +kernel⟩, ⟨u, hu.del, hu.phase⟩, v, hv.del, hv.phase⟩

/-- A message of two blocks, in RUN and in DONE after FINISH. -/
theorem hash68_finished : ∃ s, Delivered s (as 68) true ∧ s.blk.phase = .RUN ∧
    ∃ t, Delivered t (as 68) true ∧ t.blk.phase = .DONE ∧ t.blk.ERRCODE = .NONE := by
  obtain ⟨_, _, _, _, _, _, u, hu⟩ := hash68_crossing
  obtain ⟨v, hv⟩ := hu.absorb (by decide)
  obtain ⟨ha, hs⟩ := hv.command (i := .finish) rfl rfl
  have hb : effectOf .finish v.blk = _ := Block.finish_one (b := v.blk) (by have := hv.fill; omega)
  have hd := Delivered.finished hv.del ha hs
  have hp : ((v.setHost []).setBlk (effectOf .finish v.blk)).blk.phase = .RUN := by rw [State.setBlk_blk, hb]; rfl
  obtain ⟨t, g1, _, _, _, g5, g6, _⟩ := delivered_run hd hv.rst hv.turns hp (by rw [State.setBlk_blk, hb]; rfl)
    (by rw [State.setBlk_blk, hb]; simp)
  simp only [State.setBlk_blk, hb, Block.blockStart_run_next] at g5 g6
  exact ⟨_, hd, hp, t, g1, by simpa using g6, g5.trans hv.err⟩

/-- Both phases a finished message may be in: for V2's message of one byte, and for one past the first block. -/
theorem witness_FinishedDigestIsMd5 : (Delivered (advance 4 hashA) [0x61] true ∧ (advance 4 hashA).blk.phase = .RUN) ∧
    (∃ t, Delivered t [0x61] true ∧ t.blk.phase = .DONE ∧ t.blk.ERRCODE = .NONE) ∧
    ∃ s, Delivered s (as 68) true ∧ s.blk.phase = .RUN ∧
      ∃ t, Delivered t (as 68) true ∧ t.blk.phase = .DONE ∧ t.blk.ERRCODE = .NONE :=
  ⟨⟨hashA_finished, hashA_running.2.2.1⟩, hashA_done, hash68_finished⟩

/-- Below the boundary, and across it. -/
theorem witness_AbsorbStartsARunWhenLengthCrossesABlock : (Delivered (advance 2 hashA) [] false ∧
    (advance 2 hashA).nextAccepted = some (.absorb 1) ∧ ∃ t, step (advance 2 hashA) = .next t ∧ t.blk.phase = .OPEN) ∧
    ∃ s t, Delivered s (as 60) false ∧ s.nextAccepted = some (.absorb 4) ∧ step s = .next t ∧ t.blk.phase = .RUN := by
  obtain ⟨s, t, h1, h2, h3, h4, _⟩ := hash68_crossing
  exact ⟨⟨hashA_staged, hashA_commands.2.2.2.1, _, hashA_step_3, by decide +kernel⟩, s, t, h1, h2, h3, h4⟩

theorem tracks_open : (openB [] 0).Tracks [] false :=
  ⟨by decide, by decide, fun _ => ⟨rfl, rfl, by decide, by decide, by decide⟩, fun h => (nomatch h), fun h => (nomatch h),
    fun h => (nomatch h), fun h => (nomatch h), fun h => (nomatch h), fun h => (nomatch h), fun h => (nomatch h)⟩

/-- In OPEN each of the three commands; in RUN the engine's step. -/
theorem witness_EveryStepKeepsTheMessageTracked : (wr (openB [] 0) 0x1).nextAccepted = some .init ∧
    ((wr (openB [] 0) 0x12).Tracks [] false ∧ (wr (openB [] 0) 0x12).nextAccepted = some (.absorb 2) ∧
      ∃ t, step (wr (openB [] 0) 0x12) = .next t ∧ t.blk.phase = .OPEN) ∧
    ((wr (openB [] 0) 0x3).Tracks [] false ∧ (wr (openB [] 0) 0x3).nextAccepted = some .finish ∧
      (wr (openB [] 0) 0x3).nextIsReset = false ∧ ∃ t, step (wr (openB [] 0) 0x3) = .next t ∧ t.blk.phase = .RUN) ∧
    ((eng 0 .TO_DONE).Tracks [] true ∧ (eng 0 .TO_DONE).nextAccepted = none ∧
      ∃ t, step (eng 0 .TO_DONE) = .next t ∧ t.blk.rnd = 1) := by
  refine ⟨by decide, ⟨⟨rfl, tracks_open⟩, by decide, _, rfl, by decide⟩,
    ⟨⟨rfl, tracks_open⟩, by decide, by decide, _, rfl, by decide⟩, ⟨rfl, ?_⟩, by decide, _, rfl, by decide⟩
  exact ⟨by decide, by decide, fun h => (nomatch h), fun h => (nomatch h), fun _ => by decide, fun _ => by decide,
    fun _ => by decide, fun _ h => (nomatch h), fun _ _ => by decide +kernel, fun _ h => (nomatch h)⟩

theorem witness_ReachableStatesMeetBufferInvariants :
    (Reachable (advance 0 hashA) ∧ (advance 0 hashA).blk.phase = .IDLE) ∧
    (Reachable (advance 3 hashA) ∧ (advance 3 hashA).blk.phase = .OPEN) ∧
    (Reachable (advance 4 hashA) ∧ (advance 4 hashA).blk.phase = .RUN) ∧
    ∃ t, Reachable t ∧ t.blk.phase = .DONE :=
  ⟨⟨hashA_reachable _, by decide +kernel⟩, ⟨hashA_reachable _, by decide +kernel⟩, ⟨hashA_reachable _, by decide +kernel⟩,
    hashA_done.imp fun _ h => ⟨delivered_reachable h.1, h.2.1⟩⟩

theorem witness_PhaseChangesOnlyAlongItsTransitions :
    (∃ t, step resetting = .next t ∧ t.blk.phase = .IDLE) ∧ (∃ t, step (wr doneB 0x1) = .next t ∧ t.blk.phase = .OPEN) ∧
    (∃ t, step (wr (openB (as 60) 0) 0x32) = .next t ∧ t.blk.phase = .RUN) ∧
    (∃ t, step (wr (openB [] 0) 0x3) = .next t ∧ t.blk.phase = .RUN) ∧
    (∃ t, step (eng 64 .TO_OPEN) = .next t ∧ t.blk.phase = .OPEN) ∧
    (∃ t, step (eng 64 .TO_DONE) = .next t ∧ t.blk.phase = .DONE) :=
  ⟨⟨_, rfl, by decide⟩, ⟨_, rfl, by decide⟩, ⟨_, rfl, by decide⟩, ⟨_, rfl, by decide⟩, ⟨_, rfl, by decide⟩,
    _, rfl, by decide⟩

theorem witness_RunIsLeftOnlyByAccumulateOrReset : (eng 64 .TO_DONE).nextIsEngine = true ∧ (eng 64 .TO_DONE).blk.rnd = 64 ∧
    (eng 64 .TO_DONE).blk.run_next ≠ .TO_PAD2 ∧ (eng 64 .TO_DONE).blk.phase = .RUN ∧ resetting.nextIsReset = true ∧
    ∃ t, step (eng 64 .TO_DONE) = .next t ∧ t.blk.phase ≠ .RUN :=
  ⟨by decide, by decide, by decide, by decide, by decide, _, rfl, by decide⟩

theorem witness_EachRegisterChangesOnlyByItsWriters :
    (∃ t, step (eng 0 .TO_DONE) = .next t ∧ t.blk.chain ≠ (eng 0 .TO_DONE).blk.chain ∧
      t.blk.rnd ≠ (eng 0 .TO_DONE).blk.rnd ∧ (eng 0 .TO_DONE).nextIsReset = false) ∧
    (∃ t, step (wr (openB (as 62) 0) 0x32) = .next t ∧ t.blk.X ≠ (wr (openB (as 62) 0) 0x32).blk.X ∧
      t.blk.M ≠ (wr (openB (as 62) 0) 0x32).blk.M ∧ t.blk.BITLEN ≠ (wr (openB (as 62) 0) 0x32).blk.BITLEN) ∧
    (∃ t, step (wr idleB 0x3) = .next t ∧ t.blk.ERRCODE ≠ (wr idleB 0x3).blk.ERRCODE ∧
      (wr idleB 0x3).nextIsReset = false) ∧
    (∃ t, step (wr idleB 0x1) = .next t ∧ t.blk.phase ≠ (wr idleB 0x1).blk.phase) ∧
    (∃ t, step (eng 64 .TO_DONE) = .next t ∧ t.blk.phase ≠ (eng 64 .TO_DONE).blk.phase) ∧
    ∃ t, step (mach idleB [.host] [.write (.offset 0x08) 4 0x12345678]) = .next t ∧ t.blk.DATA_IN = 0x12345678 :=
  ⟨⟨_, rfl, by decide⟩, ⟨_, rfl, by decide⟩, ⟨_, rfl, by decide⟩, ⟨_, rfl, by decide⟩, ⟨_, rfl, by decide⟩, _, rfl,
    by decide⟩

theorem witness_FirstErrorKeptUntilInitOrReset :
    (∃ t, step (wr { openB [] 0 with ERRCODE := .BUSY } 0x1) = .next t ∧
      (wr { openB [] 0 with ERRCODE := .BUSY } 0x1).nextAccepted = some .init ∧ t.blk.ERRCODE = .NONE) ∧
    (∃ t, step (wr { idleB with ERRCODE := .BUSY } 0x0) = .next t ∧
      (wr { idleB with ERRCODE := .BUSY } 0x0).nextIsReset = false ∧
      (wr { idleB with ERRCODE := .BUSY } 0x0).nextAccepted ≠ some .init ∧ t.blk.ERRCODE = .BUSY) ∧
    ∃ t, step (wr idleB 0x3) = .next t ∧ (wr idleB 0x3).blk.ERRCODE = .NONE ∧ t.blk.ERRCODE ≠ .NONE :=
  ⟨⟨_, rfl, by decide⟩, ⟨_, rfl, by decide⟩, _, rfl, by decide⟩

theorem witness_ErrorsDoNotBlockCommands : (Instr.absorb 4).wf = true ∧
    acceptedIn (.absorb 4) (openB (as 62) 0).phase = true ∧ (openB (as 62) 0).ERRCODE = .NONE := by decide

/-- The host reads STATUS. -/
def reading : State := mach (runB 3 .TO_DONE) [.host] [.read (.offset 0x04) 4]

theorem witness_ReadChangesNoState : reading.nextAgent = .host ∧ reading.host = [.read (.offset 0x04) 4] ∧
    busOffset (.offset 0x04) 4 = .ok 0x04 := ⟨by decide, by decide, rfl⟩

theorem witness_EachOffsetReadsItsRegister : (mach doneB [] []).rst = false ∧ (mach doneB [] []).blk.phase = .DONE ∧
    (mach idleB [] []).rst = false ∧ (mach idleB [] []).blk.phase ≠ .DONE := by decide

theorem witness_DigestReadsZeroOutsideDone : (openB [] 0).phase ≠ .DONE ∧ doneB.phase = .DONE ∧
    (mach doneB [] []).blk = doneB := ⟨by decide, by decide, rfl⟩

theorem witness_StatusShowsItsFields : (openB (as 63) 0).M.length ≤ 63 ∧ (openB (as 63) 0).STATUS = 0x00003f04 ∧
    idleB.M.length ≤ 63 ∧ (runB 0 .TO_OPEN).M.length ≤ 63 ∧ doneB.M.length ≤ 63 ∧
    ({ idleB with ERRCODE := .ILLEGAL } : Block).STATUS = 0x00000018 ∧
    ({ idleB with ERRCODE := .BUSY } : Block).STATUS = 0x00000028 ∧
    ({ idleB with ERRCODE := .SEQUENCE } : Block).STATUS = 0x00000038 := by decide

theorem witness_DataInWriteStoresInEveryPhase :
    (mach (runB 3 .TO_DONE) [.host] [.write (.offset 0x08) 4 0x12345678]).nextAgent = .host ∧
    busOffset (.offset 0x08) 4 = .ok 0x08 := ⟨by decide, rfl⟩

/-- The last offset of the window, and the last reserved one (R41). -/
theorem witness_OtherWritesAreIgnored : (mach idleB [.host] [.write (.offset 0x3C) 4 1]).nextAgent = .host ∧
    busOffset (.offset 0x3C) 4 = .ok 0x3C := ⟨by decide, rfl⟩

/-- Misaligned, past the window, and of another size (U8). -/
theorem witness_OnlyAlignedWordAccessesInWindowAdmitted :
    (∀ off, busOffset (.offset 0x02) 4 ≠ .ok off) ∧ (∀ off, busOffset (.offset 0x40) 4 ≠ .ok off) ∧
    (∀ off, busOffset (.offset 0x00) 1 ≠ .ok off) ∧
    (mach idleB [.host] [.read (.offset 0x02) 4]).nextAgent = .host :=
  ⟨fun _ h => (nomatch h), fun _ h => (nomatch h), fun _ h => (nomatch h), by decide⟩

/-- The absolute address of the last word of the window, and the first byte past it. -/
theorem test_busOffset_absolute : busOffset (.absolute (Config.BASE + 0x3C)) 4 = .ok 0x3C ∧
    busOffset (.absolute (Config.BASE + 0x40)) 4 = .error .outsideWindow := by
  constructor <;> simp [busOffset, windowOffset]

theorem witness_ExactlySixWordsAreCommands : decode 0x00000022 = .ok (.absorb 3) := rfl

theorem witness_DecodeAndEncodeAgree : (Instr.absorb 4).wf = true ∧ decode 0x00000032 = .ok (.absorb 4) := ⟨by decide, rfl⟩

theorem witness_StepRunsTheDecodedCommand : (wr (openB [] 0) 0x22).nextAgent = .host ∧ (wr (openB [] 0) 0x22).rst = false ∧
    (wr (openB [] 0) 0x22).host = [cmd 0x22] ∧ busOffset (.offset 0x00) 4 = .ok 0x00 ∧ decode 0x22 = .ok (.absorb 3) :=
  ⟨by decide, by decide, by decide, rfl, rfl⟩

theorem witness_PlacedCommandRunsNext : decodeTableWord 32 0x3 = some .finish := by decide

theorem witness_InitOpensAMessage : (mach idleB [] []).blk.phase ≠ .RUN ∧ (mach (openB (as 3) 0) [] []).blk.phase ≠ .RUN ∧
    (mach doneB [] []).blk.phase ≠ .RUN := by decide

theorem witness_AbsorbBelowABlockAppends : (openB [] 0).phase = .OPEN ∧ (openB [] 0).M.length + 1 < 64 ∧
    (openB (as 59) 0).phase = .OPEN ∧ (openB (as 59) 0).M.length + 4 < 64 := by decide

theorem witness_AbsorbReachingABlockStartsARun : (openB (as 63) 0).phase = .OPEN ∧ 64 ≤ (openB (as 63) 0).M.length + 1 ∧
    64 ≤ (openB (as 60) 0).M.length + 4 ∧ 64 ≤ (openB (as 63) 0).M.length + 4 := by decide

theorem witness_FinishWithRoomStartsOneBlock : (openB [] 0).phase = .OPEN ∧ (openB [] 0).M.length ≤ 55 ∧
    (openB (as 55) 0).phase = .OPEN ∧ (openB (as 55) 0).M.length ≤ 55 := by decide

theorem witness_FinishWithoutRoomStartsTheFirstOfTwo : (openB (as 56) 0).phase = .OPEN ∧ 55 < (openB (as 56) 0).M.length ∧
    (openB (as 63) 0).phase = .OPEN ∧ (openB (as 63) 0).M.length ≤ 63 := by decide

theorem witness_RejectedCtrlWriteRecordsItsFirstCauseOnly : decode 0x13 = .error .operandNotZero ∧
    decode 0x3 = .ok .finish ∧ (mach (runB 3 .TO_DONE) [] []).blk.phase = .RUN ∧
    (mach idleB [] []).blk.phase = .IDLE ∧ (mach doneB [] []).blk.phase = .DONE ∧
    acceptedIn .finish (mach (openB [] 0) [] []).blk.phase = true ∧
    (wr (runB 3 .TO_DONE) 0x13).nextCtrlWord = some 0x13 ∧ (wr (runB 3 .TO_DONE) 0x3).nextCtrlWord = some 0x3 ∧
    (wr idleB 0x3).nextCtrlWord = some 0x3 ∧ (wr doneB 0x3).nextCtrlWord = some 0x3 ∧
    (wr (openB [] 0) 0x3).nextCtrlWord = some 0x3 := ⟨rfl, rfl, by decide⟩

/-- INIT rejected in RUN keeps a SEQUENCE recorded before. -/
theorem witness_SequenceRaisedByAbsorbAndFinishNeverByInit : (Instr.absorb 1).wf = true ∧ Instr.absorb 1 ≠ .init ∧
    (mach idleB [] []).blk.phase = .IDLE ∧ (mach doneB [] []).blk.phase = .DONE ∧
    ∃ t, exec .init (mach { runB 3 .TO_DONE with ERRCODE := .SEQUENCE } [] []) = .next t ∧ t.blk.ERRCODE = .SEQUENCE :=
  ⟨by decide, by decide, by decide, by decide, _, rfl, by decide⟩

theorem witness_InitFrame : (∃ t, exec .init (mach (runB 3 .TO_DONE) [] []) = .next t ∧ t.blk.ERRCODE = .BUSY) ∧
    ∃ t, exec .init (mach doneB [] []) = .next t ∧ t.blk.phase = .OPEN := ⟨⟨_, rfl, by decide⟩, _, rfl, by decide⟩

theorem witness_AbsorbFrame :
    (∃ t, exec (.absorb 1) (mach (openB [] 0) [] []) = .next t ∧ (openB [] 0).M.length + 1 < 64 ∧ t.blk.phase = .OPEN) ∧
    (∃ t, exec (.absorb 1) (mach (openB (as 63) 0) [] []) = .next t ∧ t.blk.phase = .RUN) ∧
    ∃ t, exec (.absorb 1) (mach doneB [] []) = .next t ∧ doneB.phase ≠ .OPEN ∧ t.blk.ERRCODE = .SEQUENCE :=
  ⟨⟨_, rfl, by decide⟩, ⟨_, rfl, by decide⟩, _, rfl, by decide⟩

theorem witness_FinishFrame : (∃ t, exec .finish (mach (openB (as 55) 0) [] []) = .next t ∧ t.blk.phase = .RUN) ∧
    ∃ t, exec .finish (mach idleB [] []) = .next t ∧ idleB.phase ≠ .OPEN ∧ t.blk.ERRCODE = .SEQUENCE :=
  ⟨⟨_, rfl, by decide⟩, _, rfl, by decide⟩

theorem witness_AbsorbCountOutsideRangeRefused : ((0 : Nat) = 0 ∨ 4 < 0) ∧ ((5 : Nat) = 0 ∨ 4 < 5) := by decide

theorem witness_WaitEndsOnlyWhenNotBusy :
    (mach (runB 3 .TO_DONE) [.host] [.wait]).nextAgent = .host ∧ (mach (runB 3 .TO_DONE) [.host] [.wait]).blk.phase = .RUN ∧
    (mach doneB [.host] [.wait]).nextAgent = .host ∧ (mach doneB [.host] [.wait]).blk.phase ≠ .RUN ∧
    ∃ u, exec .finish (mach { doneB with ERRCODE := .BUSY } [] []) = .next u ∧ u.blk.ERRCODE = .BUSY :=
  ⟨by decide, by decide, by decide, by decide, _, rfl, by decide⟩

theorem witness_LittleEndianPackingRoundTrips : ([1, 2, 3, 4, 5, 6, 7, 8] : List Byte).length = 8 ∧
    ([0x61, 0x62, 0x63, 0x00] : List Byte).length = 4 ∧ le32 [0x61, 0x62, 0x63, 0x00] = 0x00636261 := by decide

theorem witness_ModularAdditionInAnyOrder : List.Perm [(1 : Word), 0xffffffff] [0xffffffff, 1] := by decide

theorem witness_RoundStepRewritesTheWorkingState : (eng 0 .TO_DONE).nextAgent = .engine ∧ (eng 0 .TO_DONE).rst = false ∧
    (eng 0 .TO_DONE).blk.phase = .RUN ∧ (eng 0 .TO_DONE).blk.rnd.val = (0 : Fin 64).val ∧
    (eng 63 .TO_DONE).blk.rnd.val = (63 : Fin 64).val := by decide

theorem witness_AccumulateStepEndsOrContinuesTheRun : (eng 64 .TO_OPEN).nextAgent = .engine ∧ (eng 64 .TO_OPEN).blk.rnd = 64 ∧
    (eng 64 .TO_OPEN).blk.run_next = .TO_OPEN ∧ (eng 64 .TO_DONE).blk.run_next = .TO_DONE ∧
    (eng 64 .TO_PAD2).blk.run_next = .TO_PAD2 ∧ (eng 64 .TO_PAD2).blk.phase = .RUN := by decide

theorem witness_EngineIgnoresHostRegisters : (mach doneB [.engine] []).blk.phase ≠ .RUN ∧ (runB 63 .TO_PAD2).rnd.val < 64 ∧
    (runB 64 .TO_DONE).run_next ≠ .TO_PAD2 ∧ (runB 64 .TO_PAD2).BITLEN = 0 := by decide

theorem witness_HostCannotDisturbARun : (wr (runB 3 .TO_DONE) 0x3).blk.phase = .RUN ∧
    (wr (runB 3 .TO_DONE) 0x3).nextIsEngine = false ∧ (wr (runB 3 .TO_DONE) 0x3).nextIsReset = false ∧
    ∃ t, step (wr (runB 3 .TO_DONE) 0x3) = .next t ∧ t.blk.ERRCODE = .BUSY :=
  ⟨by decide, by decide, by decide, _, rfl, by decide⟩

theorem witness_RunLastsItsCountOfEngineSteps :
    (∃ t, exec .finish (mach (openB (as 55) 0) [] []) = .next t ∧ t.blk.phase = .RUN) ∧
    (∃ t, exec .finish (mach (openB (as 56) 0) [] []) = .next t ∧ t.blk.phase = .RUN) ∧
    (∃ t, exec (.absorb 1) (mach (openB (as 63) 0) [] []) = .next t ∧ t.blk.phase = .RUN) ∧
    (openB (as 56) 0).phase = .OPEN ∧ (runB 64 .TO_PAD2).phase = .RUN :=
  ⟨⟨_, rfl, by decide⟩, ⟨_, rfl, by decide⟩, ⟨_, rfl, by decide⟩, by decide, by decide⟩

theorem witness_EveryRunEnds : (mach (runB 0 .TO_PAD2) [.host, .engine] [.wait, cmd 0x1]).blk.phase = .RUN ∧
    (mach (runB 0 .TO_PAD2) [.host, .engine] [.wait, cmd 0x1]).host.all HostOp.plain = true := by decide

/-- "hello" in two chunks, and no chunk at all. -/
theorem witness_HashProgramReadsMd5 : (∃ ops, expandLines (hashProgram []) = some ops ∧ (mach doneB [] ops).host = ops ++ []) ∧
    (∃ ops, expandLines (hashProgram [⟨4, 0x6c6c6568⟩, ⟨1, 0x6f⟩]) = some ops ∧ (mach idleB [.engine] ops).host = ops ++ []) ∧
    (mach doneB [] []).blk.phase ≠ .RUN ∧ messageOf [⟨4, 0x6c6c6568⟩, ⟨1, 0x6f⟩] = [0x68, 0x65, 0x6c, 0x6c, 0x6f] :=
  ⟨⟨_, rfl, rfl⟩, ⟨_, rfl, rfl⟩, by decide, by decide⟩

theorem witness_UnpolledSecondFinishIsARace :
    (mach (openB (as 56) 0) [] [WR .CTRL (encode .finish), WR .CTRL (encode .finish)]).blk.phase = .OPEN ∧
    (openB [] 0).phase = .OPEN ∧ (openB [] 0).ERRCODE = .NONE := by decide

/-- Two idle machines with different datapath contents. -/
theorem witness_AlikeStatesStepAlike : (wr { idleB with A := 5, rnd := 3 } 0x1).Alike (wr idleB 0x1) :=
  ⟨⟨rfl, rfl, rfl, rfl, rfl, fun h => absurd rfl h, fun h => (nomatch h), fun h => (nomatch h), fun h => (nomatch h),
    fun h => (nomatch h)⟩, rfl, rfl, rfl, rfl, rfl⟩

end Sys2Proof.Tests
end

section
/-! SUPPORT. The little-endian packings of 00_scope.md R11: `leNat` as a positional number of any length, then the words
of four and of eight bytes as its two instances. -/

namespace Sys2Proof.Machine

/-- `leNat` is Mathlib's number of a list of digits, in base 2^8. -/
theorem leNat_eq_ofDigits (bs : List Byte) : leNat bs = Nat.ofDigits (2 ^ 8) (bs.map BitVec.toNat) := by
  induction bs with
  | nil => rfl
  | cons b bs ih => simp only [leNat, List.map_cons, Nat.ofDigits_cons, ih]

theorem leNat_lt (bs : List Byte) : leNat bs < 2 ^ (8 * bs.length) := by
  have hdigit : ∀ d ∈ bs.map BitVec.toNat, d < 2 ^ 8 := by
    simpa using fun b _ => b.isLt
  simpa [leNat_eq_ofDigits, pow_mul] using Nat.ofDigits_lt_base_pow_length (by decide) hdigit

theorem leNat_append (bs cs : List Byte) : leNat (bs ++ cs) = leNat bs + 2 ^ (8 * bs.length) * leNat cs := by
  simp only [leNat_eq_ofDigits, List.map_append, Nat.ofDigits_append, List.length_map, pow_mul]

/-- The little-endian sum: byte k has the weight 2^(8k). -/
theorem leNat_eq_sum (bs : List Byte) :
    leNat bs = ((List.range bs.length).map fun k => 2 ^ (8 * k) * (bs.getD k 0).toNat).sum := by
  induction bs with
  | nil => rfl
  | cons b bs ih =>
    have hweight (k : Nat) : 2 ^ (8 * (k + 1)) * (bs.getD k 0).toNat = 2 ^ 8 * (2 ^ (8 * k) * (bs.getD k 0).toNat) := by
      ring
    simp only [leNat, ih, List.length_cons, List.range_succ_eq_map, List.map_cons, List.map_map, List.sum_cons,
      Function.comp_def, Nat.succ_eq_add_one, List.getD_cons_zero, List.getD_cons_succ, hweight, List.sum_map_mul_left,
      Nat.mul_zero, pow_zero, one_mul]

/-- Byte k of a little-endian number is the k-th byte of the sequence. -/
theorem leNat_div_pow_mod (bs : List Byte) (k : Nat) : leNat bs / 2 ^ (8 * k) % 256 = (bs.getD k 0).toNat := by
  induction bs generalizing k with
  | nil => simp [leNat]
  | cons b bs ih =>
    have hb := b.isLt
    cases k with
    | zero => simp [leNat]; omega
    | succ k =>
      have hshift : leNat (b :: bs) / 2 ^ 8 = leNat bs := by simp only [leNat]; omega
      rw [show 2 ^ (8 * (k + 1)) = 2 ^ 8 * 2 ^ (8 * k) by ring, ← Nat.div_div_eq_div_mul, hshift, ih,
        List.getD_cons_succ]

/-- The low k bytes of a word, packed again, are the word mod 2^(8k). -/
theorem leNat_map_byteOf {n : Nat} (w : BitVec n) (k : Nat) :
    leNat ((List.range k).map (byteOf w)) = w.toNat % 2 ^ (8 * k) := by
  induction k with
  | zero => simp [leNat, Nat.mod_one]
  | succ k ih =>
    rw [List.range_succ, List.map_append, leNat_append, ih, Nat.mul_succ, pow_add, Nat.mod_mul]
    simp [leNat, byteOf_toNat]

/-- Packing a sequence the word has room for loses nothing. -/
theorem toNat_ofNat_leNat {n : Nat} (bs : List Byte) (hroom : 8 * bs.length ≤ n) :
    (BitVec.ofNat n (leNat bs)).toNat = leNat bs := by
  have hlt : leNat bs < 2 ^ n := (leNat_lt bs).trans_le (Nat.pow_le_pow_right (by decide) hroom)
  rw [BitVec.toNat_ofNat, Nat.mod_eq_of_lt hlt]

/-- The bytes of a word that packs a sequence it has room for are that sequence. -/
theorem map_byteOf_ofNat_leNat {n : Nat} (bs : List Byte) (hroom : 8 * bs.length ≤ n) :
    (List.range bs.length).map (byteOf (BitVec.ofNat n (leNat bs))) = bs := by
  refine List.ext_getElem (by simp) fun k _ hk => ?_
  apply BitVec.eq_of_toNat_eq
  rw [List.getElem_map, List.getElem_range, byteOf_toNat, toNat_ofNat_leNat bs hroom, leNat_div_pow_mod,
    List.getD_eq_getElem _ _ hk]

theorem bytes_le32_eq_map (w : Word) : bytes_le32 w = (List.range 4).map (byteOf w) := rfl

theorem bytes_le64_eq_map (L : Word64) : bytes_le64 L = (List.range 8).map (byteOf L) := rfl

theorem le32_toNat {bs : List Byte} (h : bs.length = 4) : (le32 bs).toNat = leNat bs :=
  toNat_ofNat_leNat bs (by omega)

theorem le64_toNat {bs : List Byte} (h : bs.length = 8) : (le64 bs).toNat = leNat bs :=
  toNat_ofNat_leNat bs (by omega)

@[simp] theorem le32_bytes_le32 (w : Word) : le32 (bytes_le32 w) = w := by
  apply BitVec.eq_of_toNat_eq
  rw [le32_toNat rfl, bytes_le32_eq_map, leNat_map_byteOf, Nat.mod_eq_of_lt w.isLt]

@[simp] theorem le64_bytes_le64 (L : Word64) : le64 (bytes_le64 L) = L := by
  apply BitVec.eq_of_toNat_eq
  rw [le64_toNat rfl, bytes_le64_eq_map, leNat_map_byteOf, Nat.mod_eq_of_lt L.isLt]

theorem bytes_le32_le32 {bs : List Byte} (h : bs.length = 4) : bytes_le32 (le32 bs) = bs := by
  rw [bytes_le32_eq_map, ← h]
  exact map_byteOf_ofNat_leNat bs (by omega)

theorem bytes_le64_le64 {bs : List Byte} (h : bs.length = 8) : bytes_le64 (le64 bs) = bs := by
  rw [bytes_le64_eq_map, ← h]
  exact map_byteOf_ofNat_leNat bs (by omega)

theorem le32_toNat_eq_sum (b0 b1 b2 b3 : Byte) : (le32 [b0, b1, b2, b3]).toNat =
    b0.toNat + 2 ^ 8 * b1.toNat + 2 ^ 16 * b2.toNat + 2 ^ 24 * b3.toNat := by
  rw [le32_toNat rfl]
  simp only [leNat]; ring

theorem le64_toNat_eq_sum {bs : List Byte} (h : bs.length = 8) :
    (le64 bs).toNat = ((List.range 8).map fun k => 2 ^ (8 * k) * (bs.getD k 0).toNat).sum := by
  rw [le64_toNat h, leNat_eq_sum, h]

/-- Settles O38: each of the six parts is a fact about `leNat` at every length, taken at four and at eight bytes. -/
theorem littleEndianPackingRoundTrips : Obligations.LittleEndianPackingRoundTrips :=
  ⟨le32_toNat_eq_sum, fun _ => le64_toNat_eq_sum, le32_bytes_le32, fun _ => bytes_le32_le32,
    le64_bytes_le64, fun _ => bytes_le64_le64⟩

end Sys2Proof.Machine
end

section
/-! SUPPORT. The inversion lemmas of the block, under the step's (Laws/Step): everything the engine's step and an accepted
command can do to it. Every invariant and every frame of the block follows from these two. -/

namespace Sys2Proof.Machine

/-- Everything the engine's step can do to the block (44_round_loop.md R196, R197). -/
inductive EngineMove (b : Block) : Block → Prop
  | round (i : Fin 64) : EngineMove b (b.roundStep i)
  | toOpen : b.rnd = 64 → b.run_next = .TO_OPEN →
      EngineMove b { b.setChain (b.chain.add b.saved) with phase := .OPEN }
  | toPad2 : b.rnd = 64 → b.run_next = .TO_PAD2 →
      EngineMove b ((b.setChain (b.chain.add b.saved)).blockStart (finalBlockSecond b.BITLEN) .TO_DONE)
  | toDone : b.rnd = 64 → b.run_next = .TO_DONE →
      EngineMove b { b.setChain (b.chain.add b.saved) with phase := .DONE }

theorem Block.engineStep_move (b : Block) : EngineMove b b.engineStep := by
  rcases b.engineStep_cases with ⟨h, e⟩ | ⟨h, e⟩ <;> rw [e]
  · exact .round _
  · unfold Block.accumulateStep
    split
    · exact .toOpen h ‹_›
    · exact .toPad2 h ‹_›
    · exact .toDone h ‹_›

/-- Everything an accepted command can do to the block (40_host_commands.md R101 to R103). -/
inductive CommandMove (b : Block) : Instr → Block → Prop
  | init : b.phase ≠ .RUN → CommandMove b .init b.openMessage
  | absorbAppends {n : Nat} : b.phase = .OPEN → n ≤ 4 → b.M.length + n < 64 →
      CommandMove b (.absorb n)
        { b with M := b.M ++ msgBytes b.DATA_IN n, BITLEN := b.BITLEN + BitVec.ofNat 64 (8 * n) }
  | absorbFormsBlock {n : Nat} : b.phase = .OPEN → n ≤ 4 → 64 ≤ b.M.length + n →
      CommandMove b (.absorb n)
        (({ b with
            M := (b.M ++ msgBytes b.DATA_IN n).drop 64
            BITLEN := b.BITLEN + BitVec.ofNat 64 (8 * n) } : Block).blockStart
          ((b.M ++ msgBytes b.DATA_IN n).take 64) .TO_OPEN)
  | finishOne : b.phase = .OPEN → b.M.length ≤ 55 →
      CommandMove b .finish (({ b with M := [] } : Block).blockStart (finalBlockSingle b.M b.BITLEN) .TO_DONE)
  | finishTwo : b.phase = .OPEN → 55 < b.M.length →
      CommandMove b .finish (({ b with M := [] } : Block).blockStart (finalBlockFirst b.M) .TO_PAD2)

theorem effectOf_move {i : Instr} {b : Block} (hi : i.wf = true) (h : acceptedIn i b.phase = true) :
    CommandMove b i (effectOf i b) := by
  cases i with
  | init => exact .init (by simpa [acceptedIn] using h)
  | absorb n =>
    have hn : n ≤ 4 := by simp [Instr.wf] at hi; exact hi.2
    have hopen : b.phase = .OPEN := by simpa [acceptedIn] using h
    show CommandMove b (.absorb n) (b.absorb n)
    by_cases hlen : 64 ≤ b.M.length + n
    · rw [Block.absorb_forms_block hlen]; exact .absorbFormsBlock hopen hn hlen
    · rw [Block.absorb_appends hlen]; exact .absorbAppends hopen hn (by omega)
  | finish =>
    have hopen : b.phase = .OPEN := by simpa [acceptedIn] using h
    show CommandMove b .finish b.finish
    by_cases hlen : b.M.length ≤ 55
    · rw [Block.finish_one hlen]; exact .finishOne hopen hlen
    · rw [Block.finish_two hlen]; exact .finishTwo hopen (by omega)

end Sys2Proof.Machine
end

section
/-! SUPPORT. The invariant (10_state.md R42): it holds at reset, every move of the block keeps it, and so does every step. -/

namespace Sys2Proof.Machine

theorem Block.atReset_inReset (u : Unspecified) : (Block.atReset u).InReset := ⟨rfl, rfl, rfl, rfl, rfl⟩

/-- The invariant reads four registers; where none of them changed it still holds. -/
theorem Block.Inv.congr {b c : Block} (hi : b.Inv) (hphase : c.phase = b.phase) (hm : c.M = b.M)
    (hbitlen : c.BITLEN = b.BITLEN) (hnext : c.run_next = b.run_next) : c.Inv := by
  obtain ⟨h1, h2, h3, h4, h5, h6, h7, h8⟩ := hi
  constructor <;> simp only [hphase, hm, hbitlen, hnext] <;> assumption

theorem Block.InReset.inv {b : Block} (h : b.InReset) : b.Inv := by
  obtain ⟨hphase, -, hm, hbitlen, -⟩ := h
  constructor <;> simp [hphase, hm, hbitlen]

/-- The engine's step keeps the invariant: the buffer and BITLEN stay, and `run_next` says what the buffer holds. -/
theorem EngineMove.inv {b c : Block} (hm : EngineMove b c) (hi : b.Inv) (hrun : b.phase = .RUN) : c.Inv := by
  have hwhole := hi.whole_bytes
  cases hm with
  | round i => exact hi.congr rfl rfl rfl rfl
  | toOpen _ hnext =>
    have hfill := hi.run_fill hrun hnext
    constructor <;> simp [hfill, hwhole]; omega
  | toPad2 _ hnext =>
    have hempty := hi.run_empty hrun (by simp [hnext])
    constructor <;> simp [hempty, hwhole]
  | toDone _ hnext =>
    have hempty := hi.run_empty hrun (by simp [hnext])
    constructor <;> simp [hempty, hwhole]

/-- An accepted command keeps the invariant: ABSORB adds n bytes to the buffer and 8n, mod 2^64, to BITLEN, and FINISH leaves
no bytes. -/
theorem CommandMove.inv {b c : Block} {i : Instr} (hm : CommandMove b i c) (hi : b.Inv) : c.Inv := by
  have hwhole := hi.whole_bytes
  cases hm with
  | init => constructor <;> simp
  | absorbAppends hopen hn hlen =>
    have hfill := hi.open_fill hopen
    constructor <;> simp [hopen] <;> omega
  | absorbFormsBlock hopen hn hlen =>
    have hfill := hi.open_fill hopen
    constructor <;> simp <;> omega
  | finishOne => constructor <;> simp [hwhole]
  | finishTwo => constructor <;> simp [hwhole]

/-- With `rst` low the invariant is the block's alone. -/
theorem State.Inv.of_rst_low {s : State} (hblock : s.blk.Inv) (hrst : s.rst = false) : s.Inv :=
  ⟨hblock, fun h => absurd h (by simp [hrst])⟩

/-- Settles O5, along the moves of the step: the moves of the block keep `Block.Inv`, and with `rst` high only a reset step
moves it. -/
theorem stepKeepsInvariant : Obligations.StepKeepsInvariant := by
  intro s t hs hstep
  obtain ⟨hblock, hheld⟩ := hs
  cases step_moves hstep with
  | engine _ hrun hrst ht =>
    subst ht
    exact .of_rst_low (s.blk.engineStep_move.inv hblock hrun) hrst
  | reset _ _ ht =>
    subst ht
    exact ⟨(Block.atReset_inReset _).inv, fun _ => Block.atReset_inReset _⟩
  | command _ hwf hrst hacc _ ht =>
    subst ht
    exact .of_rst_low ((effectOf_move hwf hacc).inv hblock) hrst
  | rejected _ hrst _ _ _ ht =>
    subst ht
    exact .of_rst_low (hblock.congr (by simp) (by simp) (by simp) (by simp)) hrst
  | dataIn _ hrst _ _ ht =>
    subst ht
    exact .of_rst_low (hblock.congr rfl rfl rfl rfl) hrst
  | quiet _ hblk hrst =>
    rw [← hblk] at hblock hheld
    refine ⟨hblock, fun h => hheld ?_⟩
    rcases hrst with h' | h'
    · exact h' ▸ h
    · simp [h'] at h

/-- Settles O4: R43's reset values meet the invariant, whatever the unspecified contents. -/
theorem resetMeetsInvariant : Obligations.ResetMeetsInvariant := by
  have hreset (u : Unspecified) (s : State) (hs : s.blk = Block.atReset u) : s.Inv := by
    have hin : s.blk.InReset := hs ▸ Block.atReset_inReset u
    exact ⟨hin.inv, fun _ => hin⟩
  exact ⟨hreset _ _ rfl, hreset⟩

theorem Reachable.inv {s : State} (h : Reachable s) : s.Inv := by
  induction h with
  | reset ops ts => exact resetMeetsInvariant.2 Unspecified.zeros _ rfl
  | step _ hstep ih => exact stepKeepsInvariant _ _ ih hstep

/-- In OPEN the FILL field is BITLEN counted in bytes, mod 64 (R42 item 3). -/
theorem Block.Inv.fill_eq {b : Block} (hi : b.Inv) (hopen : b.phase = .OPEN) : b.FILL = b.BITLEN.extractLsb' 3 6 := by
  apply BitVec.eq_of_toNat_eq
  simp [Block.FILL, hi.open_fill hopen, Nat.shiftRight_eq_div_pow]

/-- Settles O6: the invariant of every reachable state, read item by item. -/
theorem reachableStatesMeetBufferInvariants : Obligations.ReachableStatesMeetBufferInvariants := by
  intro s hs
  have hi := hs.inv.block
  refine ⟨hi.fill_le, hi.run_fill_le, fun h => ⟨hi.open_fill h, hi.fill_eq h⟩, fun h => by simp [hi.done_empty h],
    fun h => by simp [hi.idle_empty h], fun h => by simp [State.engineEnabled, Block.engineEnabled, h]⟩

end Sys2Proof.Machine
end

section
/-! SUPPORT. Who writes what (10_state.md R21 to R32): the frames of the block's moves, and of a step. -/

namespace Sys2Proof.Machine

/-- Settles O7: of the moves of the step, the round, the second padding block, the rejected command, the DATA_IN write and
the quiet step keep the phase. -/
theorem phaseChangesOnlyAlongItsTransitions : Obligations.PhaseChangesOnlyAlongItsTransitions := by
  intro s t hstep hne
  cases step_moves hstep with
  | engine hk hrun _ ht =>
    have hm := s.blk.engineStep_move
    subst ht
    generalize s.blk.engineStep = c at hm hne ⊢
    cases hm with
    | round i => simp at hne
    | toOpen hlast hnext => simp [hk.engine, hrun, hlast, hnext]
    | toPad2 _ _ => simp [hrun] at hne
    | toDone hlast hnext => simp [hk.engine, hrun, hlast, hnext]
  | reset hk _ ht => subst ht; simp [hk.reset]
  | command hk hwf _ hacc _ ht =>
    have hm := effectOf_move hwf hacc
    subst ht
    generalize effectOf _ s.blk = c at hm hne ⊢
    cases hm with
    | init hphase => simp [hk.cmd, hphase]
    | absorbAppends hopen _ _ => simp at hne
    | absorbFormsBlock hopen _ hlen => simp [hk.cmd, hopen, hlen]
    | finishOne hopen _ => simp [hk.cmd, hopen]
    | finishTwo hopen _ => simp [hk.cmd, hopen]
  | rejected _ _ _ _ _ ht => subst ht; simp at hne
  | dataIn _ _ _ _ ht => subst ht; simp at hne
  | quiet _ hblk => simp [hblk] at hne

/-- Settles O9: each move of the step changes only the registers it writes, and the statement names that move as a writer of
each of them. -/
theorem eachRegisterChangesOnlyByItsWriters : Obligations.EachRegisterChangesOnlyByItsWriters := by
  intro s t hstep hreset
  cases step_moves hstep with
  | engine hk hrun _ ht =>
    have hm := s.blk.engineStep_move
    subst ht
    generalize s.blk.engineStep = c at hm ⊢
    cases hm with
    | round i => simp [hk.engine, hk.cmd]
    | toOpen hlast hnext => simp [hk.engine, hlast, hnext, Block.saved]
    | toPad2 hlast hnext => simp [hk.engine, hrun, hlast, hnext]
    | toDone hlast hnext => simp [hk.engine, hlast, hnext, Block.saved]
  | reset hk _ ht => simp [hk.reset] at hreset
  | command hk hwf _ hacc _ ht =>
    have hm := effectOf_move hwf hacc
    subst ht
    generalize effectOf _ s.blk = c at hm ⊢
    cases hm with
    | init hphase => simp [hk.cmd, Block.chain, Block.saved]
    | absorbAppends hopen _ _ => simp [hk.cmd, Block.chain, Block.saved]
    | absorbFormsBlock hopen _ hlen => simp [hk.cmd, hlen, Block.chain, Block.saved]
    | finishOne hopen _ => simp [hk.cmd, Block.chain, Block.saved]
    | finishTwo hopen _ => simp [hk.cmd, Block.chain, Block.saved]
  | rejected hk _ hword _ _ ht => subst ht; simp [hk.cmd, hword, Block.saved]
  | dataIn _ _ hwrite _ ht => subst ht; simp [hwrite, Block.chain, Block.saved]
  | quiet _ hblk => simp [hblk]

end Sys2Proof.Machine
end

section
/-! SUPPORT. Two machines the host cannot tell apart (10_state.md R43, R45): every operation takes two such blocks to two
such blocks, along the definitions from the block up to the step. -/

namespace Sys2Proof.Machine

theorem Block.Alike.refl (b : Block) : b.Alike b :=
  ⟨rfl, rfl, rfl, rfl, rfl, fun _ => rfl, fun _ => rfl, fun _ => rfl, fun _ => rfl, fun _ => rfl⟩

/-- Blocks in their reset state are alike: all that R43 leaves unspecified is out of reach in IDLE. -/
theorem Block.atReset_alike (u v : Unspecified) : (Block.atReset u).Alike (Block.atReset v) := by
  constructor <;> simp

/-- In RUN nothing is out of reach: alike blocks are equal. -/
theorem Block.Alike.eq_of_run {b c : Block} (h : b.Alike c) (hrun : b.phase = .RUN) : b = c := by
  have hchain := h.chain (by simp [hrun])
  have hsaved := h.saved hrun
  simp only [Block.chain, Chain.mk.injEq] at hchain
  simp only [Block.saved, Chain.mk.injEq] at hsaved
  obtain ⟨hA, hB, hC, hD⟩ := hchain
  obtain ⟨hAA, hBB, hCC, hDD⟩ := hsaved
  exact Block.ext hA hB hC hD hAA hBB hCC hDD (h.words hrun) h.m h.bitlen h.dataIn h.errcode h.phase (h.rnd hrun)
    (h.run_next hrun)

/-- Block start saves A..D and writes all else that only RUN reads, so two blocks alike with a message open become equal. -/
theorem Block.Alike.blockStart_eq {b c : Block} (h : b.Alike c) (hidle : b.phase ≠ .IDLE) (M : List Byte) (L : Word64)
    (blk : List Byte) (nxt : RunNext) :
    ({ b with M := M, BITLEN := L } : Block).blockStart blk nxt =
      ({ c with M := M, BITLEN := L } : Block).blockStart blk nxt := by
  have hchain := h.chain hidle
  simp only [Block.chain, Chain.mk.injEq] at hchain
  simp [Block.blockStart, hchain, h.dataIn, h.errcode]

theorem Block.Alike.readRegister_eq {b c : Block} (h : b.Alike c) (off : Nat) : b.readRegister off = c.readRegister off := by
  have hstatus : b.STATUS = c.STATUS := by
    simp [Block.STATUS, Block.FILL, Block.flagERR, Block.flagOPEN, Block.flagDONE, Block.flagBUSY, h.phase, h.m, h.errcode]
  have hdigest (hdone : b.phase = .DONE) : b.chain = c.chain := h.chain (by simp [hdone])
  simp only [Block.chain, Chain.mk.injEq] at hdigest
  unfold Block.readRegister Block.DIGEST
  rw [hstatus, h.dataIn, h.bitlen, ← h.phase]
  by_cases hdone : b.phase = .DONE
  · simp [hdigest hdone]
  · simp [hdone]

theorem Block.Alike.raiseError {b c : Block} (h : b.Alike c) (e : ErrCode) : (b.raiseError e).Alike (c.raiseError e) := by
  simp only [Block.raiseError_eq, h.errcode]
  exact { h with errcode := rfl }

theorem Block.Alike.openMessage {b c : Block} (h : b.Alike c) : b.openMessage.Alike c.openMessage := by
  constructor <;> simp [h.dataIn]

theorem Block.Alike.absorb {b c : Block} (h : b.Alike c) (hopen : b.phase = .OPEN) (n : Nat) :
    (b.absorb n).Alike (c.absorb n) := by
  by_cases hlen : 64 ≤ b.M.length + n
  · have hlen' : 64 ≤ c.M.length + n := h.m ▸ hlen
    have heq : b.absorb n = c.absorb n := by
      rw [Block.absorb_forms_block hlen, h.blockStart_eq (by simp [hopen]), Block.absorb_forms_block hlen', h.m, h.dataIn,
        h.bitlen]
    exact heq ▸ .refl _
  · have hlen' : ¬ 64 ≤ c.M.length + n := h.m ▸ hlen
    rw [Block.absorb_appends hlen, Block.absorb_appends hlen', ← h.m, ← h.dataIn, ← h.bitlen]
    exact { h with m := rfl, bitlen := rfl, dataIn := rfl }

theorem Block.Alike.finish {b c : Block} (h : b.Alike c) (hopen : b.phase = .OPEN) : b.finish.Alike c.finish := by
  have hidle : b.phase ≠ .IDLE := by simp [hopen]
  have heq : b.finish = c.finish := by
    unfold Block.finish
    rw [← h.m, ← h.bitlen]
    split
    · exact h.blockStart_eq hidle [] b.BITLEN _ _
    · exact h.blockStart_eq hidle [] b.BITLEN _ _
  exact heq ▸ .refl _

theorem State.Alike.setBlk {s t : State} (h : s.Alike t) {b c : Block} (hbc : b.Alike c) :
    (s.setBlk b).Alike (t.setBlk c) := { h with blk := hbc }

theorem State.Alike.setRst {s t : State} (h : s.Alike t) (level : Bool) : (s.setRst level).Alike (t.setRst level) :=
  { h with rst := rfl }

theorem State.Alike.setHost {s t : State} (h : s.Alike t) (ops : List HostOp) : (s.setHost ops).Alike (t.setHost ops) :=
  { h with host := rfl }

theorem State.Alike.setTurns {s t : State} (h : s.Alike t) (ts : List Agent) : (s.setTurns ts).Alike (t.setTurns ts) :=
  { h with turns := rfl }

theorem State.Alike.pushRead {s t : State} (h : s.Alike t) (v : Word) : (s.pushRead v).Alike (t.pushRead v) :=
  { h with reads := by simp [h.reads] }

theorem State.Alike.raiseError {s t : State} (h : s.Alike t) (e : ErrCode) : (s.raiseError e).Alike (t.raiseError e) :=
  h.setBlk (h.blk.raiseError e)

theorem State.Alike.resetStep {s t : State} (h : s.Alike t) : s.resetStep.Alike t.resetStep :=
  { h with blk := Block.atReset_alike _ _, rst := rfl, draws := by simp [h.draws] }

theorem State.Alike.memRead_eq {s t : State} (h : s.Alike t) (off : Nat) : s.memRead off = t.memRead off := by
  unfold State.memRead
  rw [h.rst, h.blk.readRegister_eq]

theorem State.Alike.engineEnabled_eq {s t : State} (h : s.Alike t) : s.engineEnabled = t.engineEnabled := by
  simp [State.engineEnabled, Block.engineEnabled, h.rst, h.blk.phase]

theorem State.Alike.nextAgent_eq {s t : State} (h : s.Alike t) : s.nextAgent = t.nextAgent := by
  unfold State.nextAgent
  rw [h.turns, h.engineEnabled_eq]

/-- The acceptance of a command looks at the phase only, which alike machines share. -/
theorem command_alike {s t : State} (h : s.Alike t) {needsOpen : Bool} {effect : Block → Block}
    (heffect : (needsOpen = true → s.blk.phase = .OPEN) → (effect s.blk).Alike (effect t.blk)) :
    AlikeOutcomes (command needsOpen effect s) (command needsOpen effect t) := by
  unfold command
  rw [← h.blk.phase]
  split_ifs with hrun hopen
  · exact h.raiseError .BUSY
  · exact h.raiseError .SEQUENCE
  · exact h.setBlk (heffect fun hneeds => not_not.1 fun hne => hopen ⟨hneeds, hne⟩)

theorem exec_alike {s t : State} (h : s.Alike t) (i : Instr) : AlikeOutcomes (exec i s) (exec i t) := by
  cases i with
  | init => exact command_alike h fun _ => h.blk.openMessage
  | absorb n =>
    show AlikeOutcomes (execAbsorb n s) (execAbsorb n t)
    unfold execAbsorb
    split_ifs
    · exact command_alike h fun hopen => h.blk.absorb (hopen rfl) n
    · exact rfl
  | finish => exact command_alike h fun hopen => h.blk.finish (hopen rfl)

theorem memWrite_alike {s t : State} (h : s.Alike t) (off : Nat) (v : Word) :
    AlikeOutcomes (memWrite off v s) (memWrite off v t) := by
  unfold memWrite ctrlWrite
  rw [← h.rst]
  split
  · exact h
  · split
    · split
      · exact exec_alike h _
      · exact h.raiseError .ILLEGAL
    · exact h.setBlk { h.blk with dataIn := rfl }
    · exact h

theorem hostOp_alike {s t : State} (h : s.Alike t) (op : HostOp) : AlikeOutcomes (hostOp op s) (hostOp op t) := by
  cases op with
  | read a size =>
    simp only [hostOp, ← h.memRead_eq]
    split
    · exact h.pushRead _
    · exact rfl
  | write a size v =>
    simp only [hostOp]
    split
    · exact memWrite_alike h _ v
    · exact rfl
  | rst level =>
    cases level with
    | true => exact h.resetStep
    | false => exact h.setRst false
  | wait =>
    have hpolled := h.pushRead (s.memRead 0x04)
    simp only [hostOp, ← h.memRead_eq, ← h.host]
    split
    · exact hpolled.setHost _
    · exact hpolled

theorem hostTurn_alike {s t : State} (h : s.Alike t) : AlikeOutcomes (hostTurn s) (hostTurn t) := by
  unfold hostTurn
  rw [← h.host]
  split
  · exact h
  · exact hostOp_alike (h.setHost _) _

theorem engineTurn_alike {s t : State} (h : s.Alike t) : (engineTurn s).Alike (engineTurn t) := by
  unfold engineTurn
  rw [← h.engineEnabled_eq]
  split
  next henabled =>
    have hrun : s.blk.phase = .RUN := by simp_all [State.engineEnabled, Block.engineEnabled]
    exact h.setBlk (h.blk.eq_of_run hrun ▸ .refl _)
  next => exact h

theorem step_alike {s t : State} (h : s.Alike t) : AlikeOutcomes (step s) (step t) := by
  have hnext := h.setTurns s.turns.tail
  unfold step machineStep turnOf
  rw [← h.nextAgent_eq, ← h.turns]
  split
  · exact hostTurn_alike hnext
  · exact engineTurn_alike hnext

/-- Settles O58, from the block up: in RUN alike blocks are equal, a block start makes them so, and nothing else reads what
may differ. -/
theorem alikeStatesStepAlike : Obligations.AlikeStatesStepAlike :=
  ⟨fun _ _ => step_alike, fun _ _ off h => h.memRead_eq off⟩

/-- Runs of alike machines stay alike, stops included. -/
theorem run_alike {s t : State} (h : s.Alike t) (k : Nat) : AlikeOutcomes (run k s) (run k t) := by
  induction k generalizing s t with
  | zero => exact h
  | succ k ih =>
    have hstep := step_alike h
    cases hs : step s <;> cases ht : step t <;> rw [hs, ht] at hstep
    case next.next s' t' => rw [run_succ_next k hs, run_succ_next k ht]; exact ih hstep
    case refused.refused => rw [run_succ_refused k hs, run_succ_refused k ht]; exact hstep
    all_goals exact hstep.elim

theorem AlikeOutcomes.readsOf_eq {o o' : Host.Outcome State Fault Refusal} (h : AlikeOutcomes o o') :
    readsOf o = readsOf o' := by
  cases o <;> cases o'
  case next.next => exact congrArg some (State.Alike.reads h)
  case refused.refused => rfl
  all_goals exact h.elim

/-- Settles O59: two reset states are alike, and so are all that follow. -/
theorem readsIndependentOfUnspecifiedReset : Obligations.ReadsIndependentOfUnspecifiedReset := by
  intro u v s k
  have hs : s.Alike s := ⟨.refl _, rfl, rfl, rfl, rfl, rfl⟩
  exact (run_alike (hs.setBlk (Block.atReset_alike u v)) k).readsOf_eq

end Sys2Proof.Machine
end

section
/-! SUPPORT. What the host reads (10_state.md R37, R40, R43): the fields of STATUS, the DIGEST registers, and the window after
reset. -/

namespace Sys2Proof.Machine

theorem toNat_append_eq_add {m n : Nat} (x : BitVec m) (y : BitVec n) :
    (x ++ y).toNat = 2 ^ n * x.toNat + y.toNat := by
  rw [BitVec.toNat_append, ← Nat.shiftLeft_add_eq_or_of_lt y.isLt, Nat.shiftLeft_eq, Nat.mul_comm]

theorem getLsbD_of_toNat {n i : Nat} {x : BitVec n} {p : Bool} (h : x.toNat / 2 ^ i % 2 = p.toNat) :
    x.getLsbD i = p := by
  rw [BitVec.getLsbD, Nat.testBit_eq_decide_div_mod_eq, h]
  cases p <;> rfl

/-- STATUS as the sum of its fields, each at its bit position (R37). -/
theorem Block.STATUS_toNat (b : Block) :
    b.STATUS.toNat = b.flagBUSY.toNat + 2 * b.flagDONE.toNat + 4 * b.flagOPEN.toNat + 8 * b.flagERR.toNat +
      16 * b.ERRCODE.bits.toNat + 256 * b.FILL.toNat := by
  rw [Block.STATUS, BitVec.toNat_setWidth_of_le (by decide)]
  simp only [toNat_append_eq_add, BitVec.toNat_ofBool]
  omega

/-- The fields of STATUS: the four flags from bit 0, then ERRCODE, FILL and the reserved zeros (R37). -/
theorem Block.STATUS_fields (b : Block) :
    (b.STATUS.getLsbD 0 = b.flagBUSY ∧ b.STATUS.getLsbD 1 = b.flagDONE ∧ b.STATUS.getLsbD 2 = b.flagOPEN ∧
      b.STATUS.getLsbD 3 = b.flagERR) ∧
    b.STATUS.extractLsb' 4 4 = b.ERRCODE.bits ∧ b.STATUS.extractLsb' 8 6 = b.FILL ∧ b.STATUS.extractLsb' 14 18 = 0 := by
  have hbusy := b.flagBUSY.toNat_le
  have hdone := b.flagDONE.toNat_le
  have hopen := b.flagOPEN.toNat_le
  have herr := b.flagERR.toNat_le
  constructor
  · refine ⟨?_, ?_, ?_, ?_⟩ <;> apply getLsbD_of_toNat <;> rw [b.STATUS_toNat] <;> omega
  · refine ⟨?_, ?_, ?_⟩ <;> apply BitVec.eq_of_toNat_eq <;>
      simp only [BitVec.extractLsb'_toNat, Nat.shiftRight_eq_div_pow, b.STATUS_toNat, BitVec.ofNat_eq_ofNat,
        BitVec.toNat_ofNat] <;> omega

/-- The three phase flags of STATUS, as a number: none in IDLE, exactly one in each other phase (R37). -/
theorem Block.STATUS_phase (b : Block) : b.STATUS.extractLsb' 0 3 =
    (match b.phase with | .IDLE => 0 | .RUN => 1 | .DONE => 2 | .OPEN => 4) := by
  apply BitVec.eq_of_toNat_eq
  rw [BitVec.extractLsb'_toNat, Nat.shiftRight_zero, b.STATUS_toNat, Block.flagBUSY, Block.flagDONE, Block.flagOPEN]
  cases b.phase <;> simp <;> omega

theorem Block.flagERR_eq (b : Block) : b.flagERR = decide (b.ERRCODE ≠ .NONE) := by
  unfold Block.flagERR
  cases b.ERRCODE <;> rfl

theorem Block.FILL_toNat {b : Block} (h : b.M.length ≤ 63) : b.FILL.toNat = b.M.length := by
  rw [Block.FILL, BitVec.toNat_ofNat, Nat.mod_eq_of_lt (by omega)]

theorem Block.InReset.readRegister_eq_zero {b : Block} (h : b.InReset) (off : Nat) : b.readRegister off = 0x00000000 := by
  obtain ⟨hphase, herrcode, hm, hbitlen, hdata⟩ := h
  have hstatus : b.STATUS = 0 := by
    apply BitVec.eq_of_toNat_eq
    simp [b.STATUS_toNat, Block.flagBUSY, Block.flagDONE, Block.flagOPEN, Block.flagERR, Block.FILL, ErrCode.bits, hphase,
      herrcode, hm]
  unfold Block.readRegister Block.DIGEST
  split <;> simp [hstatus, hdata, hbitlen, hphase]

/-- Settles O1: every register of a block in its reset state reads 0. -/
theorem resetLeavesControlStateClear : Obligations.ResetLeavesControlStateClear :=
  ⟨⟨Unspecified.zeros, rfl⟩, rfl, fun u => ⟨Block.atReset_inReset u, (Block.atReset_inReset u).readRegister_eq_zero⟩⟩

theorem memWrite_ignored {off : Nat} (hctrl : off ≠ 0x00) (hdata : off ≠ 0x08) (v : Word) (s : State) :
    memWrite off v s = .next s := by
  rcases memWrite_cases off v s with ⟨_, e⟩ | ⟨_, h, _⟩ | ⟨_, h, _⟩ | ⟨_, _, _, e⟩
  · exact e
  · exact absurd h hctrl
  · exact absurd h hdata
  · exact e

/-- Settles O15: the fields of STATUS, from its value as the sum of its fields. -/
theorem statusShowsItsFields : Obligations.StatusShowsItsFields := by
  refine ⟨fun b hfill => ?_, fun u => (Block.atReset_inReset u).readRegister_eq_zero 0x04,
    fun s v => memWrite_ignored (by decide) (by decide) v s⟩
  obtain ⟨⟨hbusy, hdone, hopen, herr⟩, hcode, hlen, hreserved⟩ := b.STATUS_fields
  refine ⟨hbusy, hdone, hopen, herr.trans b.flagERR_eq, ?_, ?_, hreserved, ?_⟩
  · rw [hcode]
    cases b.ERRCODE <;> rfl
  · rw [hlen, Block.FILL_toNat hfill]
  · rw [b.STATUS_phase]
    cases b.phase <;> simp

/-- A word of the chaining state by its number, as DIGEST0..3 show them (R40). -/
def Chain.word (c : Chain) (n : Fin 4) : Word := #v[c.A, c.B, c.C, c.D].get n

theorem Block.readRegister_digest (b : Block) (n : Fin 4) :
    b.readRegister (0x20 + 4 * n.val) = b.DIGEST (b.chain.word n) := by
  fin_cases n <;> rfl

theorem digestBytes_getElem? (c : Chain) (n k : Fin 4) :
    (digestBytes c)[4 * n.val + k.val]? = some (byteOf (c.word n) k.val) := by
  fin_cases n <;> fin_cases k <;> rfl

/-- Settles O14: DIGESTn is word n of the chaining state, shown in DONE only. -/
theorem digestReadsZeroOutsideDone : Obligations.DigestReadsZeroOutsideDone := by
  intro b
  refine ⟨fun hdone n hn => ?_, fun hdone => ?_, fun s _ n hn v => memWrite_ignored (by omega) (by omega) v s⟩
  · rw [b.readRegister_digest ⟨n, hn⟩, Block.DIGEST, if_neg hdone]
  · have hread (n : Nat) (hn : n < 4) : b.readRegister (0x20 + 4 * n) = b.chain.word ⟨n, hn⟩ := by
      rw [b.readRegister_digest ⟨n, hn⟩, Block.DIGEST, if_pos hdone]
    refine ⟨fun n hn => ?_, rfl, fun n hn k hk => ?_⟩
    · rw [hread n hn]
      interval_cases n <;> rfl
    · rw [hread n hn]
      exact digestBytes_getElem? b.chain ⟨n, hn⟩ ⟨k, hk⟩

end Sys2Proof.Machine
end

section
/-! SUPPORT. The bus as the host meets it (20_memory.md R60 to R74): which accesses are admitted, and what a read, a refused
access and one poll of WAIT do to the machine. -/

namespace Sys2Proof.Machine

/-- The window of R72: the 64 bytes from BASE on. -/
theorem windowOffset_eq_some_iff {addr off : Nat} :
    windowOffset addr = some off ↔ addr = Config.BASE + off ∧ off ≤ 0x3F := by
  unfold windowOffset
  split_ifs
  · rw [Option.some.injEq]; omega
  · simp only [false_iff]; omega

theorem busOffset_offset_eq_ok_iff {place size off : Nat} :
    busOffset (.offset place) size = .ok off ↔ size = 4 ∧ off % 4 = 0 ∧ off ≤ 0x3C ∧ place = off := by
  constructor
  · intro h
    obtain ⟨hsize, halign, hle⟩ := busOffset_ok h
    refine ⟨hsize, halign, hle, ?_⟩
    simp only [busOffset] at h
    split_ifs at h
    cases h; rfl
  · rintro ⟨rfl, halign, hle, rfl⟩
    simp [busOffset, halign, hle]

/-- An absolute access inside the window is the access at its offset (R72). -/
theorem busOffset_absolute_eq_ok_iff {addr size off : Nat} :
    busOffset (.absolute addr) size = .ok off ↔
      ∃ place, windowOffset addr = some place ∧ busOffset (.offset place) size = .ok off := by
  simp only [busOffset]
  cases windowOffset addr with
  | none => split_ifs <;> simp
  | some place => simp

/-- Exactly the aligned 4-byte accesses of the window are admitted (R60, R70). -/
theorem busOffset_eq_ok_iff {a : BusAddr} {size off : Nat} : busOffset a size = .ok off ↔
    size = 4 ∧ off % 4 = 0 ∧ off ≤ 0x3C ∧ (a = .offset off ∨ a = .absolute (Config.BASE + off)) := by
  cases a with
  | offset place => simp [busOffset_offset_eq_ok_iff]
  | absolute addr =>
    simp only [busOffset_absolute_eq_ok_iff, windowOffset_eq_some_iff, busOffset_offset_eq_ok_iff, reduceCtorEq, false_or,
      BusAddr.absolute.injEq]
    constructor
    · rintro ⟨place, ⟨haddr, -⟩, hsize, halign, hle, rfl⟩
      exact ⟨hsize, halign, hle, haddr⟩
    · rintro ⟨hsize, halign, hle, haddr⟩
      exact ⟨off, ⟨haddr, by omega⟩, hsize, halign, hle, rfl⟩

/-- The bus names one of three reasons for a refusal (U8). -/
theorem busOffset_error {a : BusAddr} {size : Nat} {r : Refusal} (h : busOffset a size = .error r) :
    r = .subWordAccess ∨ r = .misalignedAccess ∨ r = .outsideWindow := by
  unfold busOffset at h
  split at h
  · cases h; exact .inl rfl
  · split at h
    · cases h; exact .inr (.inr rfl)
    · split_ifs at h
      · cases h; exact .inr (.inl rfl)
      · cases h; exact .inr (.inr rfl)

theorem hostOp_read {a : BusAddr} {size off : Nat} (h : busOffset a size = .ok off) (s : State) :
    hostOp (.read a size) s = .next (s.pushRead (s.memRead off)) := by
  simp only [hostOp, h]

theorem hostOp_refused {op : HostOp} {a : BusAddr} {size : Nat} {v : Word} {r : Refusal}
    (hop : op = .read a size ∨ op = .write a size v) (h : busOffset a size = .error r) (s : State) :
    hostOp op s = .refused r := by
  rcases hop with rfl | rfl <;> simp only [hostOp, h]

/-- Settles O18: an access that is not admitted has a reason, and the host's turn on it ends with that reason. -/
theorem onlyAlignedWordAccessesInWindowAdmitted : Obligations.OnlyAlignedWordAccessesInWindowAdmitted := by
  refine ⟨Nat.mul_mod_right 64 _, fun _ _ _ => busOffset_eq_ok_iff, fun s a size v ops hagent hhost hnone => ?_⟩
  obtain ⟨op, hop, hhead⟩ : ∃ op, (op = .read a size ∨ op = .write a size v) ∧ s.host = op :: ops :=
    hhost.elim (fun h => ⟨_, .inl rfl, h⟩) (fun h => ⟨_, .inr rfl, h⟩)
  cases hbus : busOffset a size with
  | ok off => exact absurd hbus (hnone off)
  | error r => exact ⟨r, (step_host hagent hhead).trans (hostOp_refused hop hbus _), busOffset_error hbus⟩

@[simp] theorem State.pushRead_memRead (s : State) (v : Word) (off : Nat) : (s.pushRead v).memRead off = s.memRead off := rfl
@[simp] theorem State.setHost_memRead (s : State) (ops : List HostOp) (off : Nat) :
    (s.setHost ops).memRead off = s.memRead off := rfl
@[simp] theorem State.setTurns_memRead (s : State) (ts : List Agent) (off : Nat) :
    (s.setTurns ts).memRead off = s.memRead off := rfl

/-- Settles O12: a read takes the host's operation and hands over the value; what is read looks at neither. -/
theorem readChangesNoState : Obligations.ReadChangesNoState := by
  intro s a off ops hagent hhost hbus
  refine ⟨_, (step_host hagent hhost).trans (hostOp_read hbus _), ?_⟩
  simp

theorem State.memRead_of_rst_low {s : State} (h : s.rst = false) (off : Nat) : s.memRead off = s.blk.readRegister off := by
  simp [State.memRead, h]

theorem Block.readRegister_reserved (b : Block) {off : Nat} (h : off ∈ [0x0C, 0x18, 0x1C, 0x30, 0x34, 0x38, 0x3C]) :
    b.readRegister off = 0x00000000 := by
  simp only [List.mem_cons, List.not_mem_nil, or_false] at h
  rcases h with rfl | rfl | rfl | rfl | rfl | rfl | rfl <;> rfl

/-- The two halves of BITLEN make up the whole (R39). -/
theorem Block.readRegister_bitlen (b : Block) :
    (b.readRegister 0x14).toNat * 2 ^ 32 + (b.readRegister 0x10).toNat = b.BITLEN.toNat := by
  have hlt := b.BITLEN.isLt
  simp only [Block.readRegister, BitVec.extractLsb'_toNat, Nat.shiftRight_eq_div_pow]
  omega

/-- Settles O13, row by row of R62's table. -/
theorem eachOffsetReadsItsRegister : Obligations.EachOffsetReadsItsRegister := by
  intro s hrst
  simp only [State.memRead_of_rst_low hrst]
  exact ⟨rfl, rfl, rfl, s.blk.readRegister_bitlen, fun hdone => ⟨if_pos hdone, if_pos hdone, if_pos hdone, if_pos hdone⟩,
    (digestReadsZeroOutsideDone s.blk).1, fun _ => s.blk.readRegister_reserved⟩

/-- Bit 0 of STATUS, which WAIT polls, is 1 exactly in RUN (R37). -/
theorem Block.STATUS_busy (b : Block) : b.STATUS.getLsbD 0 = decide (b.phase = .RUN) := b.STATUS_fields.1.1

/-- One poll of WAIT in RUN with `rst` low: STATUS is read, and the loop goes round again (R92). -/
theorem hostOp_wait_of_run {s : State} (hrst : s.rst = false) (hrun : s.blk.phase = .RUN) :
    hostOp .wait s = .next ((s.pushRead s.blk.STATUS).setHost (.wait :: s.host)) := by
  have hread : s.memRead 0x04 = s.blk.STATUS := State.memRead_of_rst_low hrst 0x04
  simp only [hostOp, hread, Block.STATUS_busy, decide_eq_true_eq, if_pos hrun]

/-- One poll of WAIT outside RUN with `rst` low: STATUS is read, and the loop ends (R92). -/
theorem hostOp_wait_of_not_run {s : State} (hrst : s.rst = false) (hrun : s.blk.phase ≠ .RUN) :
    hostOp .wait s = .next (s.pushRead s.blk.STATUS) := by
  have hread : s.memRead 0x04 = s.blk.STATUS := State.memRead_of_rst_low hrst 0x04
  simp only [hostOp, hread, Block.STATUS_busy, decide_eq_true_eq, if_neg hrun]

theorem exec_next_wf {i : Instr} {s t : State} (h : exec i s = .next t) : i.wf = true := by
  cases i with
  | init => rfl
  | finish => rfl
  | absorb n =>
    change execAbsorb n s = .next t at h
    unfold execAbsorb at h
    split at h
    next hwf => exact hwf
    next => cases h

/-- A command that is performed raises no error: INIT clears ERRCODE, ABSORB and FINISH keep it (R248). -/
theorem CommandMove.errcode {b c : Block} {i : Instr} (h : CommandMove b i c) :
    c.ERRCODE = .NONE ∨ c.ERRCODE = b.ERRCODE := by
  cases h with
  | init => exact .inl rfl
  | absorbAppends => exact .inr rfl
  | absorbFormsBlock => exact .inr rfl
  | finishOne => exact .inr rfl
  | finishTwo => exact .inr rfl

/-- Outside RUN no command is rejected as BUSY: the code is there after it only if it was there before (R243). -/
theorem exec_busy_only_in_run {i : Instr} {s t : State} (hphase : s.blk.phase ≠ .RUN) (h : exec i s = .next t)
    (hbusy : t.blk.ERRCODE = .BUSY) : s.blk.ERRCODE = .BUSY := by
  have hwf := exec_next_wf h
  rcases exec_cases i hwf s with ⟨hacc, e⟩ | ⟨_, hrun, _⟩ | ⟨_, _, e⟩
  · cases e.symm.trans h
    rcases (effectOf_move hwf hacc).errcode with herr | herr
    · cases herr.symm.trans hbusy
    · exact herr.symm.trans hbusy
  · exact absurd hrun hphase
  · cases e.symm.trans h
    rw [State.raiseError_blk, Block.raiseError_ERRCODE] at hbusy
    split_ifs at hbusy
    exact hbusy

/-- Settles O37: BUSY is bit 0 of the word polled, and WAIT leaves the block in the phase that word shows. -/
theorem waitEndsOnlyWhenNotBusy : Obligations.WaitEndsOnlyWhenNotBusy := by
  intro s ops hagent hrst hhost
  by_cases hrun : s.blk.phase = .RUN
  · exact ⟨_, (step_host hagent hhost).trans (hostOp_wait_of_run hrst hrun), rfl, rfl, fun _ => rfl,
      fun hphase => absurd hrun hphase⟩
  · exact ⟨_, (step_host hagent hhost).trans (hostOp_wait_of_not_run hrst hrun), rfl, rfl, fun hphase => absurd hphase hrun,
      fun _ => ⟨rfl, fun _ _ => exec_busy_only_in_run hrun⟩⟩

end Sys2Proof.Machine
end

section
/-! SUPPORT. The decoder and the encoder of a command word (30_encoding.md), through its three fields. -/

namespace Sys2Proof.Machine

theorem fieldCMD_toNat (w : Word) : (fieldCMD w).toNat = w.toNat % 16 := by
  simp [fieldCMD, BitVec.extractLsb'_toNat]

theorem fieldNB_toNat (w : Word) : (fieldNB w).toNat = w.toNat / 16 % 4 := by
  simp [fieldNB, BitVec.extractLsb'_toNat, Nat.shiftRight_eq_div_pow]

theorem fieldRSV_toNat (w : Word) : (fieldRSV w).toNat = w.toNat / 64 % 2 ^ 26 := by
  simp [fieldRSV, BitVec.extractLsb'_toNat, Nat.shiftRight_eq_div_pow]

/-- A command word is its three fields: they cover its 32 bits (30_encoding.md R80). -/
theorem word_eq_iff_fields {v w : Word} :
    v = w ↔ fieldRSV v = fieldRSV w ∧ fieldNB v = fieldNB w ∧ fieldCMD v = fieldCMD w := by
  have hv := v.isLt
  have hw := w.isLt
  simp only [← BitVec.toNat_inj, fieldRSV_toNat, fieldNB_toNat, fieldCMD_toNat]
  omega

/-- What the decoder answers, by the fields (30_encoding.md R81 to R84). -/
theorem decode_eq_ok_iff_fields {w : Word} {i : Instr} :
    decode w = .ok i ↔ fieldRSV w = 0 ∧
      (fieldCMD w = 0x1 ∧ fieldNB w = 0 ∧ i = .init ∨
        fieldCMD w = 0x2 ∧ i = .absorb ((fieldNB w).toNat + 1) ∨
        fieldCMD w = 0x3 ∧ fieldNB w = 0 ∧ i = .finish) := by
  constructor
  · intro h
    unfold decode at h
    split_ifs at h with hrsv hinit habsorb hfinish <;> cases h
    · exact ⟨not_not.mp hrsv, .inl ⟨hinit.1, hinit.2, rfl⟩⟩
    · exact ⟨not_not.mp hrsv, .inr (.inl ⟨habsorb, rfl⟩)⟩
    · exact ⟨not_not.mp hrsv, .inr (.inr ⟨hfinish.1, hfinish.2, rfl⟩)⟩
  · rintro ⟨hrsv, ⟨hcmd, hnb, rfl⟩ | ⟨hcmd, rfl⟩ | ⟨hcmd, hnb, rfl⟩⟩
    · simp [decode, hrsv, hcmd, hnb]
    · simp [decode, hrsv, hcmd]
    · simp [decode, hrsv, hcmd, hnb]

theorem fields_encode_absorb (nb : BitVec 2) : fieldRSV (encode (.absorb (nb.toNat + 1))) = 0 ∧
    fieldNB (encode (.absorb (nb.toNat + 1))) = nb ∧ fieldCMD (encode (.absorb (nb.toNat + 1))) = 0x2 := by
  revert nb
  decide

theorem wf_absorb_iff {n : Nat} : (Instr.absorb n).wf = true ↔ 1 ≤ n ∧ n ≤ 4 := by
  simp [Instr.wf]

theorem decode_encode {i : Instr} (h : i.wf = true) : decode (encode i) = .ok i := by
  cases i with
  | init => rfl
  | finish => rfl
  | absorb n =>
    obtain ⟨hpos, hle⟩ := wf_absorb_iff.mp h
    interval_cases n <;> rfl

theorem encode_of_decode {w : Word} {i : Instr} (h : decode w = .ok i) : encode i = w := by
  obtain ⟨hrsv, ⟨hcmd, hnb, rfl⟩ | ⟨hcmd, rfl⟩ | ⟨hcmd, hnb, rfl⟩⟩ := decode_eq_ok_iff_fields.mp h
  · exact word_eq_iff_fields.mpr ⟨hrsv.symm, hnb.symm, hcmd.symm⟩
  · obtain ⟨hrsv', hnb', hcmd'⟩ := fields_encode_absorb (fieldNB w)
    exact word_eq_iff_fields.mpr ⟨hrsv'.trans hrsv.symm, hnb', hcmd'.trans hcmd.symm⟩
  · exact word_eq_iff_fields.mpr ⟨hrsv.symm, hnb.symm, hcmd.symm⟩

/-- Settles O20: a word that decodes has the fields of the command's own word, and the fields fix the word. -/
theorem decodeAndEncodeAgree : Obligations.DecodeAndEncodeAgree :=
  ⟨fun _ => decode_encode, fun _ _ h => ⟨decode_wf h, encode_of_decode h⟩⟩

theorem decode_eq_ok_iff {w : Word} {i : Instr} : decode w = .ok i ↔ i.wf = true ∧ encode i = w :=
  ⟨fun h => ⟨decode_wf h, encode_of_decode h⟩, fun ⟨hwf, hw⟩ => hw ▸ decode_encode hwf⟩

theorem decode_eq_init_iff {w : Word} : decode w = .ok .init ↔ w = 0x00000001 :=
  decode_eq_ok_iff.trans ⟨fun h => h.2.symm, fun h => ⟨rfl, h.symm⟩⟩

theorem decode_eq_finish_iff {w : Word} : decode w = .ok .finish ↔ w = 0x00000003 :=
  decode_eq_ok_iff.trans ⟨fun h => h.2.symm, fun h => ⟨rfl, h.symm⟩⟩

theorem decode_eq_absorb_iff {w : Word} {n : Nat} :
    decode w = .ok (.absorb n) ↔ (fieldRSV w = 0 ∧ fieldCMD w = 0x2) ∧ n = (fieldNB w).toNat + 1 := by
  simp [decode_eq_ok_iff_fields, and_assoc]

/-- The mask of the rows INIT and FINISH covers the whole word (30_encoding.md R85). -/
theorem and_fullMask (w : Word) : w &&& 0xFFFFFFFF = w := BitVec.and_allOnes

/-- The mask of ABSORB's row leaves out NB alone (30_encoding.md R85). -/
theorem and_absorbMask_eq_iff {w : Word} :
    w &&& 0xFFFFFFCF = 0x00000002 ↔ fieldRSV w = 0 ∧ fieldCMD w = 0x2 := by
  have hrsv : fieldRSV (w &&& 0xFFFFFFCF) = fieldRSV w := BitVec.extractLsb'_and.trans BitVec.and_allOnes
  have hnb : fieldNB (w &&& 0xFFFFFFCF) = 0 := BitVec.extractLsb'_and.trans BitVec.and_zero
  have hcmd : fieldCMD (w &&& 0xFFFFFFCF) = fieldCMD w := BitVec.extractLsb'_and.trans BitVec.and_allOnes
  rw [word_eq_iff_fields, hrsv, hnb, hcmd]
  exact ⟨fun ⟨h, _, h'⟩ => ⟨h, h'⟩, fun ⟨h, h'⟩ => ⟨h, rfl, h'⟩⟩

theorem decode_error_iff {w : Word} : (∃ e, decode w = .error e) ↔ ∀ i, decode w ≠ .ok i := by
  cases decode w <;> simp

/-- Settles O21, row by row: the masks of INIT and FINISH fix the whole word, that of ABSORB all but NB. -/
theorem decodeSelectsTheMatchingRow : Obligations.DecodeSelectsTheMatchingRow := by
  intro w
  have hinit : decode w = .ok .init ↔ w &&& 0xFFFFFFFF = 0x00000001 := by
    rw [and_fullMask, decode_eq_init_iff]
  have habsorb (n : Nat) : decode w = .ok (.absorb n) ↔
      w &&& 0xFFFFFFCF = 0x00000002 ∧ n = (w.extractLsb' 4 2).toNat + 1 := by
    rw [and_absorbMask_eq_iff, decode_eq_absorb_iff]; rfl
  have hfinish : decode w = .ok .finish ↔ w &&& 0xFFFFFFFF = 0x00000003 := by
    rw [and_fullMask, decode_eq_finish_iff]
  refine ⟨hinit, habsorb, hfinish, decode_error_iff.trans ⟨fun hnone => ?_, fun ⟨h1, h2, h3⟩ i hi => ?_⟩⟩
  · exact ⟨fun h => hnone _ (hinit.mpr h), fun h => hnone _ ((habsorb _).mpr ⟨h, rfl⟩), fun h => hnone _ (hfinish.mpr h)⟩
  · cases i with
    | init => exact h1 (hinit.mp hi)
    | absorb n => exact h2 ((habsorb n).mp hi).1
    | finish => exact h3 (hfinish.mp hi)

/-- The commands of R84's table, in its order. -/
def tableCommands : List Instr := [.init, .absorb 1, .absorb 2, .absorb 3, .absorb 4, .finish]

/-- The commands some word encodes are those of R84's table. -/
theorem wf_iff_mem_tableCommands {i : Instr} : i.wf = true ↔ i ∈ tableCommands := by
  cases i with
  | init => decide
  | finish => decide
  | absorb n => simp [wf_absorb_iff, tableCommands]; omega

/-- Settles O22: R84's table pairs each well-formed command with its own word. -/
theorem exactlySixWordsAreCommands : Obligations.ExactlySixWordsAreCommands := by
  intro w i
  change _ ↔ (w, i) ∈ tableCommands.map fun i => (encode i, i)
  rw [decode_eq_ok_iff, wf_iff_mem_tableCommands]
  simp [and_comm]

/-- Settles O19: the decoder is run on each word. -/
theorem sampleCommandWordsDecode : Obligations.SampleCommandWordsDecode :=
  ⟨rfl, rfl, rfl, rfl, rfl, rfl, rfl, rfl, rfl, rfl, rfl, rfl⟩

/-- Settles O35: such a count is not well-formed, which the command's meaning and its expansion both ask for. -/
theorem absorbCountOutsideRangeRefused : Obligations.AbsorbCountOutsideRangeRefused := by
  intro n s hn
  have hwf : ¬ (Instr.absorb n).wf = true := by rw [wf_absorb_iff]; omega
  exact ⟨if_neg hwf, fun w hw => hwf (decode_wf hw), if_neg hwf⟩

end Sys2Proof.Machine
end

section
/-! SUPPORT. The host's writes (40_host_commands.md R100, R104, R110): where a MemWrite goes, and the step that
performs it. -/

namespace Sys2Proof.Machine

theorem hostOp_write {a : BusAddr} {size off : Nat} (h : busOffset a size = .ok off) (v : Word) (s : State) :
    hostOp (.write a size v) s = memWrite off v s := by
  simp only [hostOp, h]

/-- The step in which the host writes inside the bus contract (20_memory.md R63). -/
theorem step_write {s : State} {a : BusAddr} {v : Word} {off : Nat} {ops : List HostOp} (hagent : s.nextAgent = .host)
    (hhost : s.host = .write a 4 v :: ops) (hbus : busOffset a 4 = .ok off) :
    step s = memWrite off v ((s.setTurns s.turns.tail).setHost ops) :=
  (step_host hagent hhost).trans (hostOp_write hbus v _)

theorem memWrite_ctrl {s : State} (hrst : s.rst = false) (v : Word) : memWrite 0x00 v s = ctrlWrite v s := by
  simp [memWrite, hrst]

theorem memWrite_dataIn {s : State} (hrst : s.rst = false) (v : Word) :
    memWrite 0x08 v s = .next (s.setBlk { s.blk with DATA_IN := v }) := by
  simp [memWrite, hrst]

theorem ctrlWrite_of_decode {v : Word} {i : Instr} (h : decode v = .ok i) (s : State) : ctrlWrite v s = exec i s := by
  simp only [ctrlWrite, h]

/-- Settles O16: DATA_IN is none of the registers STATUS is made of. -/
theorem dataInWriteStoresInEveryPhase : Obligations.DataInWriteStoresInEveryPhase := by
  intro s a v ops hagent hrst hhost hbus
  have hlow : ((s.setTurns s.turns.tail).setHost ops).rst = false := hrst
  exact ⟨_, (step_write hagent hhost hbus).trans (memWrite_dataIn hlow v), rfl, hrst, rfl, rfl, rfl,
    State.memRead_of_rst_low (by simp [hrst]) 0x08⟩

/-- Settles O17: a reserved offset reads 0 from the block, and every offset reads 0 while `rst` is high. -/
theorem otherWritesAreIgnored : Obligations.OtherWritesAreIgnored := by
  refine fun s => ⟨fun a v off ops hagent hhost hbus hctrl hdata => ?_, fun off hoff => ?_⟩
  · exact (step_write hagent hhost hbus).trans (memWrite_ignored hctrl hdata v _)
  · rw [State.memRead, s.blk.readRegister_reserved hoff, ite_self]

/-- Settles O23: the step is the write, the write is to CTRL, and the word decodes. -/
theorem stepRunsTheDecodedCommand : Obligations.StepRunsTheDecodedCommand := by
  intro s a v i ops hagent hrst hhost hbus hdecode
  have hlow : ((s.setTurns s.turns.tail).setHost ops).rst = false := hrst
  calc step s
      _ = memWrite 0x00 v ((s.setTurns s.turns.tail).setHost ops) := step_write hagent hhost hbus
      _ = ctrlWrite v ((s.setTurns s.turns.tail).setHost ops) := memWrite_ctrl hlow v
      _ = exec i ((s.setTurns s.turns.tail).setHost ops) := ctrlWrite_of_decode hdecode _

theorem decode_of_decodeTableWord {nbits w : Nat} {i : Instr} (h : decodeTableWord nbits w = some i) :
    decode (BitVec.ofNat 32 (w % 2 ^ nbits)) = .ok i := by
  simp only [decodeTableWord] at h
  split at h
  next =>
    split at h
    next hdecode => cases h; exact hdecode
    next => cases h
  next => cases h

/-- Settles O24: `withFetchWord` makes the state O23 speaks of. -/
theorem placedCommandRunsNext : Obligations.PlacedCommandRunsNext := by
  intro s w i hdecode
  exact stepRunsTheDecodedCommand (s.withFetchWord 32 w) (.offset 0x00) _ i s.host rfl rfl rfl rfl
    (decode_of_decodeTableWord hdecode)

end Sys2Proof.Machine
end

section
/-! SUPPORT. The three commands completed (40_host_commands.md R101 to R103), each in the phase it is accepted in. -/

namespace Sys2Proof.Machine

@[simp] theorem Block.openMessage_saved (b : Block) : b.openMessage.saved = b.saved := rfl

@[simp] theorem Block.raiseError_saved (b : Block) (c : ErrCode) : (b.raiseError c).saved = b.saved := by
  simp [Block.saved]

/-- After INIT only the OPEN flag of STATUS is set (R101). -/
theorem Block.openMessage_STATUS (b : Block) : b.openMessage.STATUS = 0x00000004 := by
  apply BitVec.eq_of_toNat_eq
  simp [Block.STATUS_toNat, Block.flagBUSY, Block.flagDONE, Block.flagOPEN, Block.flagERR, Block.FILL, ErrCode.bits]

/-- Settles O25: `openMessage` is what R101 says, and outside DONE the digest registers read 0. -/
theorem initOpensAMessage : Obligations.InitOpensAMessage := by
  intro s hphase
  have hdigest : ∀ n < 4, s.blk.openMessage.readRegister (0x20 + 4 * n) = 0x00000000 :=
    (digestReadsZeroOutsideDone _).1 (by simp)
  refine ⟨s.setBlk s.blk.openMessage, exec_accepted rfl (by simp [acceptedIn, hphase]), ?_⟩
  simpa [IV, Block.openMessage_STATUS] using hdigest

theorem exec_absorb_of_open {s : State} {n : Nat} (hlow : 1 ≤ n) (hhigh : n ≤ 4) (hopen : s.blk.phase = .OPEN) :
    exec (.absorb n) s = .next (s.setBlk (s.blk.absorb n)) :=
  exec_accepted (wf_absorb_iff.mpr ⟨hlow, hhigh⟩) (by simp [acceptedIn, hopen])

theorem exec_finish_of_open {s : State} (hopen : s.blk.phase = .OPEN) :
    exec .finish s = .next (s.setBlk s.blk.finish) :=
  exec_accepted rfl (by simp [acceptedIn, hopen])

/-- The bytes ABSORB n takes are the low n bytes of DATA_IN (30_encoding.md R89). -/
theorem msgBytes_eq_take {n : Nat} (h : n ≤ 4) (w : Word) : msgBytes w n = (bytes_le32 w).take n := by
  rw [bytes_le32_eq_map, ← List.map_take, List.take_range, Nat.min_eq_left h, msgBytes]

theorem bitlen_add_toNat (L : Word64) (k : Nat) : (L + BitVec.ofNat 64 k).toNat = (L.toNat + k) % 2 ^ 64 := by
  rw [BitVec.toNat_add, BitVec.toNat_ofNat, Nat.add_mod_mod]

/-- Settles O26: the absorbed block is the old one with the bytes appended and the bits counted. -/
theorem absorbBelowABlockAppends : Obligations.AbsorbBelowABlockAppends := by
  intro s n hlow hhigh hopen hlen
  have hfill : (s.blk.M ++ msgBytes s.blk.DATA_IN n).length = s.blk.M.length + n := by simp
  refine ⟨_, exec_absorb_of_open hlow hhigh hopen, ?_⟩
  rw [State.setBlk_blk, Block.absorb_appends (by omega)]
  refine ⟨?_, bitlen_add_toNat _ _, rfl, by simp [Block.flagOPEN, hopen], ?_⟩
  · exact congrArg (s.blk.M ++ ·) (msgBytes_eq_take hhigh _)
  · exact (Block.FILL_toNat (hfill.trans_le (by omega))).trans hfill

/-- Settles O27: the block is started on the first 64 bytes, whose words are those of all the bytes. -/
theorem absorbReachingABlockStartsARun : Obligations.AbsorbReachingABlockStartsARun := by
  intro s n hlow hhigh hopen hlen
  refine ⟨_, exec_absorb_of_open hlow hhigh hopen, ?_⟩
  rw [State.setBlk_blk, Block.absorb_forms_block hlen]
  refine ⟨fun j => ?_, rfl, bitlen_add_toNat _ _, ?_⟩
  · rw [Block.blockStart_X, blockWords_get, slice_take _ _ _ _ (by omega)]
  · simp [Block.chain, Block.flagBUSY]

theorem slice_append_right (l r : List Byte) (i j : Nat) :
    slice (l ++ r) (l.length + i) (l.length + j) = slice r i j := by
  rw [slice, slice, List.drop_length_add_append, Nat.add_sub_add_left]

theorem byteOf_extractLsb' {n : Nat} (w : BitVec n) (i : Nat) {k : Nat} (hk : k < 4) :
    byteOf (w.extractLsb' (8 * i) 32) k = byteOf w (i + k) := by
  ext j hj
  have hbit : 8 * k + j < 32 := by omega
  simp [byteOf, hbit, Nat.mul_add, Nat.add_assoc]

/-- The eight bytes of a 64-bit number are those of its low and then of its high word (R11). -/
theorem bytes_le64_eq_append (L : Word64) :
    bytes_le64 L = bytes_le32 (L.extractLsb' 0 32) ++ bytes_le32 (L.extractLsb' 32 32) := by
  have hlow {k : Nat} (hk : k < 4) : byteOf (L.extractLsb' 0 32) k = byteOf L (0 + k) := byteOf_extractLsb' L 0 hk
  have hhigh {k : Nat} (hk : k < 4) : byteOf (L.extractLsb' 32 32) k = byteOf L (4 + k) := byteOf_extractLsb' L 4 hk
  simp [bytes_le64, bytes_le32, hlow, hhigh]

/-- Words 14 and 15 of a block that ends with the length field are the halves of that field (41_padding.md R136). -/
theorem blockWords_lengthField {front : List Byte} (hfront : front.length = 56) (L : Word64) :
    (blockWords (front ++ bytes_le64 L)).get 14 = L.extractLsb' 0 32 ∧
    (blockWords (front ++ bytes_le64 L)).get 15 = L.extractLsb' 32 32 := by
  have hlow := slice_append_right front (bytes_le64 L) 0 4
  have hhigh := slice_append_right front (bytes_le64 L) 4 8
  rw [hfront, bytes_le64_eq_append] at hlow hhigh
  rw [blockWords_get, blockWords_get, bytes_le64_eq_append]
  exact ⟨(congrArg le32 hlow).trans (le32_bytes_le32 _), (congrArg le32 hhigh).trans (le32_bytes_le32 _)⟩

/-- Settles O28: the block is started on R136's block, whose last eight bytes are the length field. -/
theorem finishWithRoomStartsOneBlock : Obligations.FinishWithRoomStartsOneBlock := by
  intro s hopen hlen
  refine ⟨_, exec_finish_of_open hopen, ?_⟩
  rw [State.setBlk_blk, Block.finish_one hlen]
  have hfront : (s.blk.M ++ [0x80] ++ zeros (55 - s.blk.M.length)).length = 56 := by simp; omega
  obtain ⟨hlow, hhigh⟩ := blockWords_lengthField hfront s.blk.BITLEN
  refine ⟨blockWords_get _, hlow, hhigh, ?_⟩
  simp [Block.chain, Block.flagBUSY, Block.FILL]

/-- Settles O29: the block is started on R137's first block. -/
theorem finishWithoutRoomStartsTheFirstOfTwo : Obligations.FinishWithoutRoomStartsTheFirstOfTwo := by
  intro s hopen hlen _
  refine ⟨_, exec_finish_of_open hopen, ?_⟩
  rw [State.setBlk_blk, Block.finish_two (by omega)]
  refine ⟨blockWords_get _, ?_⟩
  simp [Block.chain, Block.flagBUSY, Block.FILL]

end Sys2Proof.Machine
end

section
/-! SUPPORT. The frames of the three commands (60_exceptions.md R247), from one inversion of `exec`. -/

namespace Sys2Proof.Machine

/-- Everything a command that gives a next state can do: it is performed, or the error R243 or R244 names is raised. -/
inductive ExecMove (s : State) (i : Instr) : State → Prop
  | performed {c : Block} : CommandMove s.blk i c → ExecMove s i (s.setBlk c)
  | rejected {e : ErrCode} : acceptedIn i s.blk.phase = false →
      e = (if s.blk.phase = .RUN then .BUSY else .SEQUENCE) → ExecMove s i (s.raiseError e)

theorem exec_move {i : Instr} {s t : State} (h : exec i s = .next t) : ExecMove s i t := by
  have hwf := exec_next_wf h
  rcases exec_cases i hwf s with ⟨hacc, e⟩ | ⟨hrej, hrun, e⟩ | ⟨hrej, hrun, e⟩ <;> cases e.symm.trans h
  · exact .performed (effectOf_move hwf hacc)
  · exact .rejected hrej (if_pos hrun).symm
  · exact .rejected hrej (if_neg hrun).symm

/-- Settles O32: an accepted INIT was not in RUN, and a rejected one changes ERRCODE alone. -/
theorem initFrame : Obligations.InitFrame := by
  intro s t h
  cases exec_move h with
  | performed hm =>
    cases hm with
    | init hphase => simp [hphase]
  | rejected => simp [State.raiseError]

/-- Settles O33: ABSORB appends, forms a block or is rejected, and each premise of the frame rules one of these out. -/
theorem absorbFrame : Obligations.AbsorbFrame := by
  intro n s t h
  cases exec_move h with
  | performed hm =>
    cases hm with
    | absorbAppends hopen _ _ => simp [hopen, Block.chain, Block.saved]
    | absorbFormsBlock hopen _ hlen => simp [hopen, hlen, Block.chain]
  | rejected hrej _ =>
    have hopen : s.blk.phase ≠ .OPEN := by simpa [acceptedIn] using hrej
    simp [hopen, State.raiseError]

/-- Settles O34: FINISH is performed in OPEN, with one padding block or the first of two, or rejected elsewhere. -/
theorem finishFrame : Obligations.FinishFrame := by
  intro s t h
  cases exec_move h with
  | performed hm =>
    cases hm with
    | finishOne hopen _ => simp [hopen, Block.chain]
    | finishTwo hopen _ => simp [hopen, Block.chain]
  | rejected hrej _ =>
    have hopen : s.blk.phase ≠ .OPEN := by simpa [acceptedIn] using hrej
    simp [hopen, State.raiseError]

end Sys2Proof.Machine
end

section
/-! SUPPORT. The 64-byte blocks of a byte sequence (41_padding.md R134, R135): how `fullBlocks` and the bytes left over
follow an append, and the padded message cut into blocks. -/

namespace Sys2Proof.Machine

/-- The bytes of a message past its complete groups: what the buffer holds in OPEN (R135). -/
def restBytes (m : List Byte) : List Byte := m.drop (64 * (m.length / 64))

theorem restBytes_length (m : List Byte) : (restBytes m).length = m.length % 64 := by
  simp only [restBytes, List.length_drop]; omega

/-- Before the rest stands a whole number of groups. -/
theorem exists_groups_append_restBytes (m : List Byte) : ∃ gs, gs.length % 64 = 0 ∧ m = gs ++ restBytes m := by
  refine ⟨m.take (64 * (m.length / 64)), ?_, (List.take_append_drop _ m).symm⟩
  simp only [List.length_take]; omega

theorem fullBlocks_of_lt {l : List Byte} (h : l.length < 64) : fullBlocks l = [] := by
  simp [fullBlocks, Nat.div_eq_of_lt h]

theorem restBytes_of_lt {l : List Byte} (h : l.length < 64) : restBytes l = l := by
  simp [restBytes, Nat.div_eq_of_lt h]

theorem fullBlocks_of_length_eq {l : List Byte} (h : l.length = 64) : fullBlocks l = [l] := by
  simp [fullBlocks, h, slice, List.take_of_length_le]

/-- After a whole number of groups the blocks start again. -/
theorem fullBlocks_append {gs : List Byte} (h : gs.length % 64 = 0) (l : List Byte) :
    fullBlocks (gs ++ l) = fullBlocks gs ++ fullBlocks l := by
  have hgs : 64 * (gs.length / 64) = gs.length := by omega
  have hcount : (gs ++ l).length / 64 = gs.length / 64 + l.length / 64 := by rw [List.length_append]; omega
  simp only [fullBlocks, hcount, List.range_add, List.map_append, List.map_map]
  congr 1 <;> apply List.map_congr_left <;> intro k hk
  · rw [List.mem_range] at hk
    exact slice_append_left _ _ _ _ (by omega)
  · simp only [Function.comp_apply, Nat.mul_add, hgs, Nat.add_assoc]
    exact slice_append_right _ _ _ _

theorem restBytes_append {gs : List Byte} (h : gs.length % 64 = 0) (l : List Byte) :
    restBytes (gs ++ l) = restBytes l := by
  have hstart : 64 * ((gs ++ l).length / 64) = gs.length + 64 * (l.length / 64) := by rw [List.length_append]; omega
  rw [restBytes, hstart, List.drop_length_add_append, restBytes]

/-- Bytes appended to a message form blocks with its rest only: the groups complete before stay as they are. -/
theorem fullBlocks_append_rest (m l : List Byte) : fullBlocks (m ++ l) = fullBlocks m ++ fullBlocks (restBytes m ++ l) := by
  obtain ⟨gs, hgs, hm⟩ := exists_groups_append_restBytes m
  have hrest : (restBytes m).length < 64 := by rw [restBytes_length]; omega
  have hfull : fullBlocks m = fullBlocks gs := by
    rw [hm, fullBlocks_append hgs, fullBlocks_of_lt hrest, List.append_nil]
  rw [hfull, ← fullBlocks_append hgs, ← List.append_assoc, ← hm]

theorem restBytes_append_rest (m l : List Byte) : restBytes (m ++ l) = restBytes (restBytes m ++ l) := by
  obtain ⟨gs, hgs, hm⟩ := exists_groups_append_restBytes m
  rw [← restBytes_append hgs (restBytes m ++ l), ← List.append_assoc, ← hm]

/-- The first k groups, put together again, are the first 64k bytes. -/
theorem flatten_map_slice (l : List Byte) (k : Nat) :
    ((List.range k).map fun i => slice l (64 * i) (64 * i + 64)).flatten = l.take (64 * k) := by
  induction k with
  | zero => simp
  | succ k ih =>
    rw [List.range_succ, List.map_append, List.flatten_append, ih, Nat.mul_succ, List.take_add]
    simp [slice]

theorem length_of_mem_fullBlocks {l blk : List Byte} (h : blk ∈ fullBlocks l) : blk.length = 64 := by
  simp only [fullBlocks, List.mem_map, List.mem_range] at h
  obtain ⟨k, hk, rfl⟩ := h
  simp only [slice, List.length_take, List.length_drop]; omega

/-- The number of padding zeros (R130), without negative numbers. -/
theorem padZeros_eq (n : Nat) : padZeros n = (119 - n % 64) % 64 := by
  unfold padZeros; omega

/-- What R130 appends to the message. -/
def padTail (m : List Byte) : List Byte := [0x80] ++ zeros (padZeros m.length) ++ bytes_le64 (lengthField m)

theorem pad_eq_append (m : List Byte) : pad m = m ++ padTail m := by
  simp [pad, padTail]

theorem pad_length (m : List Byte) : (pad m).length = m.length + 1 + padZeros m.length + 8 := by
  simp [pad]; omega

/-- The padded message is a whole number of blocks (R132). -/
theorem pad_length_eq_blocks (m : List Byte) : (pad m).length = 64 * nblocks m.length := by
  rw [pad_length, padZeros_eq, nblocks]; omega

/-- The blocks of R134 are the groups of the padded message. -/
theorem blocks_eq_fullBlocks_pad (m : List Byte) : blocks m = fullBlocks (pad m) := by
  rw [blocks, fullBlocks, pad_length_eq_blocks, Nat.mul_div_cancel_left _ (by decide)]

theorem flatten_blocks (m : List Byte) : (blocks m).flatten = pad m := by
  rw [blocks, flatten_map_slice, ← pad_length_eq_blocks, List.take_length]

/-- Settles O51: the counts are arithmetic from `padZeros_eq`, and the bytes are those of the four parts of R130. -/
theorem paddingFillsWholeBlocks : Obligations.PaddingFillsWholeBlocks := by
  intro m
  have hz := padZeros_eq m.length
  refine ⟨pad_length m, pad_length_eq_blocks m, by unfold nblocks; omega, by unfold nblocks; omega, by omega,
    fun z h => by omega, ?_, ?_, ?_, ?_, flatten_blocks m, fun blk hblk => ?_⟩
  · rw [pad_eq_append, List.take_left]
  · simp [pad]
  · simp [pad, zeros]
  · have hfront : m.length + 1 + padZeros m.length = (m ++ [0x80] ++ zeros (padZeros m.length)).length := by
      simp; omega
    rw [pad, hfront, List.drop_left, lengthField]
  · rw [blocks_eq_fullBlocks_pad] at hblk
    exact length_of_mem_fullBlocks hblk

/-- With at most 55 bytes left over, they and the padding are R136's block. -/
theorem restBytes_append_padTail_of_room {m : List Byte} (h : m.length % 64 ≤ 55) :
    restBytes m ++ padTail m = finalBlockSingle (restBytes m) (lengthField m) := by
  have hz : padZeros m.length = 55 - m.length % 64 := by rw [padZeros_eq]; omega
  simp [padTail, finalBlockSingle, restBytes_length, hz]

/-- With more, the padding zeros fill up R137's first block and are 56 of the second. -/
theorem restBytes_append_padTail_of_full {m : List Byte} (h : ¬ m.length % 64 ≤ 55) :
    restBytes m ++ padTail m = finalBlockFirst (restBytes m) ++ finalBlockSecond (lengthField m) := by
  have hz : padZeros m.length = 63 - m.length % 64 + 56 := by rw [padZeros_eq]; omega
  simp [padTail, finalBlockFirst, finalBlockSecond, restBytes_length, hz, zeros, List.replicate_add]

theorem finalBlockSingle_length {M : List Byte} (h : M.length ≤ 55) (L : Word64) :
    (finalBlockSingle M L).length = 64 := by
  simp [finalBlockSingle]; omega

theorem finalBlockFirst_length {M : List Byte} (h : M.length ≤ 63) : (finalBlockFirst M).length = 64 := by
  simp [finalBlockFirst]; omega

theorem finalBlockSecond_length (L : Word64) : (finalBlockSecond L).length = 64 := by
  simp [finalBlockSecond]

theorem blocks_of_room {m : List Byte} (h : m.length % 64 ≤ 55) :
    blocks m = fullBlocks m ++ [finalBlockSingle (restBytes m) (lengthField m)] := by
  have hlen := finalBlockSingle_length (restBytes_length m ▸ h) (lengthField m)
  rw [blocks_eq_fullBlocks_pad, pad_eq_append, fullBlocks_append_rest, restBytes_append_padTail_of_room h,
    fullBlocks_of_length_eq hlen]

theorem blocks_of_full {m : List Byte} (h : ¬ m.length % 64 ≤ 55) :
    blocks m = fullBlocks m ++ [finalBlockFirst (restBytes m), finalBlockSecond (lengthField m)] := by
  have hfirst : (finalBlockFirst (restBytes m)).length = 64 := finalBlockFirst_length (by rw [restBytes_length]; omega)
  have hsecond := finalBlockSecond_length (lengthField m)
  rw [blocks_eq_fullBlocks_pad, pad_eq_append, fullBlocks_append_rest, restBytes_append_padTail_of_full h,
    fullBlocks_append (by omega), fullBlocks_of_length_eq hfirst, fullBlocks_of_length_eq hsecond, List.cons_append,
    List.nil_append]

/-- Settles O52: R138's case split, on whether the rest leaves room for the length. -/
theorem hardwareBlocksArePaddedBlocks : Obligations.HardwareBlocksArePaddedBlocks := by
  intro m
  dsimp only
  split
  next h => exact blocks_of_room h
  next h => exact blocks_of_full h

end Sys2Proof.Machine
end

section
/-! SUPPORT. The message on its way (41_padding.md R135, R138, 44_round_loop.md R195, 45_digest.md R224): every move of the
block keeps `Block.Tracks`, so every step does, and so does every run. -/

namespace Sys2Proof.Machine

/-- A step in which a command is accepted performs it. -/
theorem step_accepted {s t : State} {i : Instr} (hcmd : s.nextAccepted = some i) (hstep : step s = .next t) :
    i.wf = true ∧ acceptedIn i s.blk.phase = true ∧ t.rst = false ∧ t.blk = effectOf i s.blk := by
  cases step_moves hstep with
  | command hk hwf hrst hacc _ ht =>
    cases hk.cmd.symm.trans hcmd
    subst ht
    exact ⟨hwf, hacc, hrst, rfl⟩
  | engine hk | reset hk | rejected hk | dataIn hk | quiet hk => exact nomatch hk.cmd.symm.trans hcmd

theorem lengthField_append (m l : List Byte) :
    lengthField (m ++ l) = lengthField m + BitVec.ofNat 64 (8 * l.length) := by
  simp [lengthField, Nat.mul_add, BitVec.ofNat_add]

theorem chainAfter_append (bs cs : List (List Byte)) : chainAfter (bs ++ cs) = cs.foldl compress (chainAfter bs) :=
  List.foldl_append

/-- A block just started ends with the compression of what A..D held before (R192, R195). -/
theorem Block.blockStart_willBe (b : Block) (blk : List Byte) (nxt : RunNext) :
    (b.blockStart blk nxt).willBe = compress b.chain blk := rfl

theorem Block.blockStart_roundsDone (b : Block) (blk : List Byte) (nxt : RunNext) :
    (b.blockStart blk nxt).roundsDone = b.chain := rfl

/-- A round adds itself to the rounds done (R193, R196). -/
theorem Block.roundStep_roundsDone {b : Block} {i : Fin 64} (hi : b.rnd.val = i.val) :
    (b.roundStep i).roundsDone = roundFn b.X b.roundsDone i := by
  have htake : (List.finRange 64).take (i.val + 1) = (List.finRange 64).take i.val ++ [i] := by
    rw [List.take_add_one, List.getElem?_eq_getElem (by simp)]; simp
  simp [Block.roundsDone, hi, htake, List.foldl_append]

theorem Block.roundsDone_last {b : Block} (h : b.rnd = 64) : b.roundsDone = rounds b.X b.saved := by
  have hall : (List.finRange 64).take b.rnd.val = List.finRange 64 := List.take_of_length_le (by simp [h])
  rw [Block.roundsDone, hall, rounds]

theorem Block.Holds.tracks {b : Block} {m : List Byte} (h : b.Holds m) : b.Tracks m false := by
  have hphase := h.phase
  constructor <;> simp [h, hphase, h.bitlen]

theorem Block.openMessage_holds (b : Block) : b.openMessage.Holds [] := ⟨rfl, rfl, rfl, rfl⟩

/-- DATA_IN and ERRCODE are no part of what the block holds of a message. -/
theorem Block.Tracks.set_dataIn_errcode {b : Block} {m : List Byte} {fin : Bool} (h : b.Tracks m fin) (d : Word)
    (e : ErrCode) : ({ b with DATA_IN := d, ERRCODE := e } : Block).Tracks m fin := by
  obtain ⟨hphase, hbitlen, hopened, hdone, hworking, hnext, hbuffer, htoOpen, htoDone, htoPad2⟩ := h
  refine ⟨hphase, hbitlen, fun ho => ?_, hdone, hworking, hnext, hbuffer, htoOpen, htoDone, htoPad2⟩
  obtain ⟨hfin, hholds⟩ := hopened ho
  exact ⟨hfin, hholds.phase, hholds.bitlen, hholds.buffer, hholds.chain⟩

/-- What a block start must be given: the buffer and the count are the message's, and the block compressed now is one that
leads to the chaining state the message calls for. -/
theorem Block.tracks_blockStart {b : Block} {blk : List Byte} {nxt : RunNext} {m : List Byte} {fin : Bool}
    (hbitlen : b.BITLEN = lengthField m) (hnext : nxt = .TO_OPEN ↔ fin = false)
    (hbuffer : b.M = if fin then [] else restBytes m)
    (hopen : nxt = .TO_OPEN → compress b.chain blk = chainAfter (fullBlocks m))
    (hdone : nxt = .TO_DONE → compress b.chain blk = chainAfter (blocks m))
    (hpad2 : nxt = .TO_PAD2 → compress (compress b.chain blk) (finalBlockSecond b.BITLEN) = chainAfter (blocks m)) :
    (b.blockStart blk nxt).Tracks m fin where
  phase := nofun
  bitlen := hbitlen
  opened := nofun
  done := nofun
  working _ := rfl
  run_next _ := hnext
  buffer _ := hbuffer
  to_open _ := hopen
  to_done _ := hdone
  to_pad2 _ := hpad2

/-- One more round keeps the block on its way. -/
theorem Block.Tracks.roundStep {b : Block} {m : List Byte} {fin : Bool} (h : b.Tracks m fin) (hrun : b.phase = .RUN)
    {i : Fin 64} (hi : b.rnd.val = i.val) : (b.roundStep i).Tracks m fin where
  phase := h.phase
  bitlen := h.bitlen
  opened ho := nomatch hrun.symm.trans ho
  done hd := nomatch hrun.symm.trans hd
  working _ := by rw [Block.roundStep_roundsDone hi, ← h.working hrun, Block.roundStep_chain]
  run_next := h.run_next
  buffer := h.buffer
  to_open := h.to_open
  to_done := h.to_done
  to_pad2 := h.to_pad2

/-- The accumulate step turns what the run would end with into A..D. -/
theorem Block.Tracks.accumulateStep {b : Block} {m : List Byte} {fin : Bool} (h : b.Tracks m fin)
    (hrun : b.phase = .RUN) (hlast : b.rnd = 64) : b.accumulateStep.Tracks m fin := by
  have hsum : b.chain.add b.saved = b.willBe := by rw [h.working hrun, Block.roundsDone_last hlast, Block.willBe]
  have hfin := h.run_next hrun
  have hbuffer := h.buffer hrun
  unfold Block.accumulateStep
  rw [hsum]
  split
  next hnext =>
    obtain rfl : fin = false := hfin.mp hnext
    exact Block.Holds.tracks ⟨rfl, h.bitlen, hbuffer, h.to_open hrun hnext⟩
  next hnext =>
    have htrue : fin = true := by simpa [hnext] using hfin
    have hchain : compress b.willBe (finalBlockSecond b.BITLEN) = chainAfter (blocks m) := h.to_pad2 hrun hnext
    exact Block.tracks_blockStart h.bitlen (by simp [htrue]) hbuffer nofun (fun _ => hchain) nofun
  next hnext =>
    obtain rfl : fin = true := by simpa [hnext] using hfin
    have hchain := h.to_done hrun hnext
    exact ⟨nofun, h.bitlen, nofun, fun _ => ⟨rfl, hbuffer, hchain⟩, nofun, nofun, nofun, nofun, nofun, nofun⟩

theorem Block.Tracks.engineStep {b : Block} {m : List Byte} {fin : Bool} (h : b.Tracks m fin) (hrun : b.phase = .RUN) :
    b.engineStep.Tracks m fin := by
  rcases b.engineStep_cases with ⟨hlt, e⟩ | ⟨hlast, e⟩ <;> rw [e]
  · exact h.roundStep hrun rfl
  · exact h.accumulateStep hrun hlast

theorem Block.Holds.fill {b : Block} {m : List Byte} (h : b.Holds m) : b.M.length = m.length % 64 := by
  rw [h.buffer]; exact restBytes_length m

/-- ABSORB below a block: the message's groups stay as they are (R102, R135). -/
theorem Block.Holds.absorb_appends {b : Block} {m : List Byte} {n : Nat} (h : b.Holds m) (hlen : ¬ 64 ≤ b.M.length + n) :
    (b.absorb n).Holds (m ++ msgBytes b.DATA_IN n) := by
  have hM : b.M = restBytes m := h.buffer
  have hlt : (restBytes m ++ msgBytes b.DATA_IN n).length < 64 := by simpa [← hM] using hlen
  rw [Block.absorb_appends hlen]
  refine ⟨h.phase, ?_, ?_, ?_⟩
  · rw [lengthField_append, msgBytes_length, h.bitlen]
  · show _ = restBytes _
    rw [restBytes_append_rest, restBytes_of_lt hlt, hM]
  · rw [fullBlocks_append_rest, fullBlocks_of_lt hlt, List.append_nil]
    exact h.chain

/-- A group and what is past it. -/
theorem fullBlocks_restBytes_of_one_group {l : List Byte} (hlow : 64 ≤ l.length) (hhigh : l.length < 128) :
    fullBlocks l = [l.take 64] ∧ restBytes l = l.drop 64 := by
  have hgroup : (l.take 64).length = 64 := by rw [List.length_take]; omega
  have hwhole : (l.take 64).length % 64 = 0 := by rw [hgroup]
  have hover : (l.drop 64).length < 64 := by rw [List.length_drop]; omega
  have hfull := fullBlocks_append hwhole (l.drop 64)
  have hrest := restBytes_append hwhole (l.drop 64)
  rw [List.take_append_drop] at hfull hrest
  rw [hfull, hrest, fullBlocks_of_length_eq hgroup, fullBlocks_of_lt hover, restBytes_of_lt hover]
  exact ⟨List.append_nil _, rfl⟩

/-- ABSORB that reaches a block: it is the message's next group, and what is past it the new rest (R102, R135). -/
theorem Block.Holds.absorb_forms_block {b : Block} {m : List Byte} {n : Nat} (h : b.Holds m) (hn : n ≤ 4)
    (hlen : 64 ≤ b.M.length + n) : (b.absorb n).Tracks (m ++ msgBytes b.DATA_IN n) false := by
  have hM : b.M = restBytes m := h.buffer
  have hfill := h.fill
  have hlength : (b.M ++ msgBytes b.DATA_IN n).length = b.M.length + n := by simp
  obtain ⟨hfull, hrest⟩ := fullBlocks_restBytes_of_one_group (hlength ▸ hlen) (by omega)
  rw [Block.absorb_forms_block hlen]
  refine Block.tracks_blockStart ?_ (by simp) ?_ (fun _ => ?_) nofun nofun
  · rw [lengthField_append, msgBytes_length, h.bitlen]
  · rw [restBytes_append_rest, ← hM, hrest]; rfl
  · rw [fullBlocks_append_rest, ← hM, hfull, chainAfter_append, ← h.chain]; rfl

theorem Block.Holds.absorb {b : Block} {m : List Byte} {n : Nat} (h : b.Holds m) (hn : n ≤ 4) :
    (b.absorb n).Tracks (m ++ msgBytes b.DATA_IN n) false := by
  by_cases hlen : 64 ≤ b.M.length + n
  · exact h.absorb_forms_block hn hlen
  · exact (h.absorb_appends hlen).tracks

/-- FINISH starts the last block of the padded message, or the last but one (R103, R136 to R138). -/
theorem Block.Holds.finish {b : Block} {m : List Byte} (h : b.Holds m) : b.finish.Tracks m true := by
  have hM : b.M = restBytes m := h.buffer
  by_cases hlen : b.M.length ≤ 55
  · have hchain : compress b.chain (finalBlockSingle b.M b.BITLEN) = chainAfter (blocks m) := by
      rw [blocks_of_room (h.fill ▸ hlen), chainAfter_append, ← h.chain, h.bitlen, hM]; rfl
    rw [Block.finish_one hlen]
    exact Block.tracks_blockStart h.bitlen (by simp) rfl nofun (fun _ => hchain) nofun
  · have hchain : compress (compress b.chain (finalBlockFirst b.M)) (finalBlockSecond b.BITLEN) =
        chainAfter (blocks m) := by
      rw [blocks_of_full (h.fill ▸ hlen), chainAfter_append, ← h.chain, h.bitlen, hM]; rfl
    rw [Block.finish_two hlen]
    exact Block.tracks_blockStart h.bitlen (by simp) rfl nofun nofun fun _ => hchain

/-- A step that neither resets the block nor performs a command keeps the message: the engine's step by
`Block.Tracks.engineStep`, every other by touching DATA_IN and ERRCODE at most. -/
theorem State.Tracks.step_unaccepted {s t : State} {m : List Byte} {fin : Bool} (h : s.Tracks m fin)
    (hstep : step s = .next t) (hreset : s.nextIsReset = false) (hcmd : s.nextAccepted = none) : t.Tracks m fin := by
  obtain ⟨hrst, hblk⟩ := h
  cases step_moves hstep with
  | engine _ hrun _ ht => subst ht; exact ⟨hrst, hblk.engineStep hrun⟩
  | reset hk => exact nomatch hk.reset.symm.trans hreset
  | command hk => exact nomatch hk.cmd.symm.trans hcmd
  | rejected _ _ _ _ _ ht =>
    subst ht
    refine ⟨hrst, ?_⟩
    rw [State.raiseError_blk, Block.raiseError_eq]
    exact hblk.set_dataIn_errcode _ _
  | dataIn _ _ _ _ ht => subst ht; exact ⟨hrst, hblk.set_dataIn_errcode _ _⟩
  | quiet _ hsame hlow => exact ⟨hlow.elim (·.trans hrst) id, hsame ▸ hblk⟩

theorem tracks_of_init_accepted {s t : State} (hcmd : s.nextAccepted = some .init) (hstep : step s = .next t) :
    t.Tracks [] false := by
  obtain ⟨-, -, hrst, hblk⟩ := step_accepted hcmd hstep
  exact ⟨hrst, hblk ▸ s.blk.openMessage_holds.tracks⟩

theorem State.Tracks.step_absorb {s t : State} {m : List Byte} {fin : Bool} {n : Nat} (h : s.Tracks m fin)
    (hcmd : s.nextAccepted = some (.absorb n)) (hstep : step s = .next t) :
    fin = false ∧ t.Tracks (m ++ msgBytes s.blk.DATA_IN n) false := by
  obtain ⟨hwf, hacc, hrst, hblk⟩ := step_accepted hcmd hstep
  obtain ⟨hfin, hholds⟩ := h.blk.opened (by simpa [acceptedIn] using hacc)
  exact ⟨hfin, hrst, hblk ▸ hholds.absorb (wf_absorb_iff.mp hwf).2⟩

theorem State.Tracks.step_finish {s t : State} {m : List Byte} {fin : Bool} (h : s.Tracks m fin)
    (hcmd : s.nextAccepted = some .finish) (hstep : step s = .next t) : fin = false ∧ t.Tracks m true := by
  obtain ⟨-, hacc, hrst, hblk⟩ := step_accepted hcmd hstep
  obtain ⟨hfin, hholds⟩ := h.blk.opened (by simpa [acceptedIn] using hacc)
  exact ⟨hfin, hrst, hblk ▸ hholds.finish⟩

/-- Settles O60, one kind of step at a time. -/
theorem everyStepKeepsTheMessageTracked : Obligations.EveryStepKeepsTheMessageTracked :=
  ⟨fun _ _ => tracks_of_init_accepted, fun _ _ _ _ h hstep hreset =>
    ⟨h.step_unaccepted hstep hreset, fun _ hcmd => h.step_absorb hcmd hstep, fun hcmd => h.step_finish hcmd hstep⟩⟩

/-- Whatever a run has delivered since its INIT is on its way. -/
theorem Delivered.tracks {s : State} {m : List Byte} {fin : Bool} (h : Delivered s m fin) : s.Tracks m fin := by
  induction h with
  | opened _ hcmd hstep => exact tracks_of_init_accepted hcmd hstep
  | absorbed _ hcmd hstep ih => exact (ih.step_absorb hcmd hstep).2
  | finished _ hcmd hstep ih => exact (ih.step_finish hcmd hstep).2
  | other _ hcmd hreset hstep ih => exact ih.step_unaccepted hstep hreset hcmd

/-- Settles O53: in OPEN, to be on its way with m is to hold m so far. -/
theorem openBlockHoldsTheMessageSoFar : Obligations.OpenBlockHoldsTheMessageSoFar :=
  fun _ _ h hopen => (h.tracks.blk.opened hopen).2

end Sys2Proof.Machine
end

section
/-! SUPPORT. The message-word schedule (42_constant_rom.md R153 to R157): the rounds are numbered by their group and their
word, one round for each pair. -/

namespace Sys2Proof.Machine

/-- The round of group p that takes word w. On a group g is i ↦ m * i + c mod 16 with m odd (R155), so w - c times the
inverse of m mod 16 gives the round back. -/
def roundOfWord (p : Fin 4) (w : Fin 16) : Fin 64 :=
  let j : Fin 16 :=
    match p with
    | 0 => w
    | 1 => 13 * (w - 1)
    | 2 => 11 * (w - 5)
    | 3 => 7 * w
  ⟨16 * p.val + j.val, by omega⟩

theorem roundOfWord_q_g : ∀ i : Fin 64, roundOfWord (q i) (g i) = i := by decide

theorem q_g_roundOfWord : ∀ (p : Fin 4) (w : Fin 16), q (roundOfWord p w) = p ∧ g (roundOfWord p w) = w := by
  decide

theorem q_g_eq_iff (i : Fin 64) (p : Fin 4) (w : Fin 16) : q i = p ∧ g i = w ↔ i = roundOfWord p w := by
  constructor
  · rintro ⟨rfl, rfl⟩; exact (roundOfWord_q_g i).symm
  · rintro rfl; exact q_g_roundOfWord p w

theorem S_val : ∀ i : Fin 64, some (S i).val =
    ([[7, 12, 17, 22], [5, 9, 14, 20], [4, 11, 16, 23], [6, 10, 15, 21]][i.val / 16]?.bind
      fun row => row[i.val % 4]?) := by decide

theorem S_range : ∀ i : Fin 64, 4 ≤ (S i).val ∧ (S i).val ≤ 23 := by decide

theorem g_val : ∀ i : Fin 64, (g i).val = if i.val < 16 then i.val else if i.val < 32 then (5 * i.val + 1) % 16
    else if i.val < 48 then (3 * i.val + 5) % 16 else 7 * i.val % 16 := by decide

/-- Settles O43: the tables by their finitely many rounds, the schedule by the inverse of i ↦ (q i, g i). -/
theorem scheduleUsesEveryWordOncePerGroup : Obligations.ScheduleUsesEveryWordOncePerGroup := by
  refine ⟨S_val, S_range, g_val, fun p w => ?_⟩
  simp only [q_g_eq_iff]
  exact existsUnique_eq

end Sys2Proof.Machine
end

section
/-! SUPPORT. The K ROM against the real sine (42_constant_rom.md R151, R152). sin n is the imaginary part of exp(i)^n, and
exp(i) is within 10^-18 of its Taylor polynomial of degree 19, a Gaussian integer over 19!. The powers of that fraction
are exact, so the 64 words are compared with the sine by integer arithmetic. -/

namespace Sys2Proof.Machine

open GaussianInt

/-- The Taylor polynomial of degree 19 of exp, at i. -/
noncomputable def taylorExpI : ℂ := ∑ m ∈ Finset.range 20, Complex.I ^ m / (m.factorial : ℂ)

/-- 19! times that, as a Gaussian integer that computes. -/
def taylorNumerator : GaussianInt :=
  ∑ m ∈ Finset.range 20, ((Nat.factorial 19 / m.factorial : ℕ) : GaussianInt) * ⟨0, 1⟩ ^ m

theorem taylorExpI_eq : taylorExpI = toComplex taylorNumerator / (Nat.factorial 19 : ℂ) := by
  symm
  rw [taylorExpI, taylorNumerator, map_sum, Finset.sum_div]
  refine Finset.sum_congr rfl fun m hm => ?_
  have hdvd : m.factorial ∣ Nat.factorial 19 := Nat.factorial_dvd_factorial (by have := Finset.mem_range.mp hm; omega)
  have hm0 : (m.factorial : ℂ) ≠ 0 := Nat.cast_ne_zero.mpr m.factorial_ne_zero
  have h19 : (Nat.factorial 19 : ℂ) ≠ 0 := Nat.cast_ne_zero.mpr (Nat.factorial_ne_zero 19)
  rw [map_mul, map_natCast, map_pow, toComplex_def', Nat.cast_div hdvd hm0]
  rw [Int.cast_zero, Int.cast_one, zero_add, one_mul]
  field_simp

theorem norm_taylorExpI_le_one : ‖taylorExpI‖ ≤ 1 := by
  have hnorm : taylorNumerator.norm ≤ (Nat.factorial 19 : ℤ) ^ 2 := by decide
  have hsq : ‖toComplex taylorNumerator‖ ^ 2 ≤ (Nat.factorial 19 : ℝ) ^ 2 := by
    rw [← Complex.normSq_eq_norm_sq, ← intCast_real_norm]
    exact_mod_cast hnorm
  rw [taylorExpI_eq, norm_div, Complex.norm_natCast]
  exact div_le_one_of_le₀ (le_of_sq_le_sq hsq (Nat.cast_nonneg _)) (Nat.cast_nonneg _)

theorem norm_exp_I_sub_taylorExpI_le : ‖Complex.exp Complex.I - taylorExpI‖ ≤ 1 / 10 ^ 18 := by
  refine (Complex.exp_bound Complex.norm_I.le (by norm_num)).trans ?_
  norm_num [Nat.factorial]

/-- In the unit disc a power multiplies a distance by its exponent at most. -/
theorem norm_pow_sub_pow_le {z w : ℂ} (hz : ‖z‖ ≤ 1) (hw : ‖w‖ ≤ 1) (n : ℕ) : ‖z ^ n - w ^ n‖ ≤ n * ‖z - w‖ := by
  induction n with
  | zero => simp
  | succ n ih =>
    calc ‖z ^ (n + 1) - w ^ (n + 1)‖ = ‖z * (z ^ n - w ^ n) + (z - w) * w ^ n‖ := by congr 1; ring
      _ ≤ ‖z‖ * ‖z ^ n - w ^ n‖ + ‖z - w‖ * ‖w‖ ^ n := by
        rw [← norm_pow, ← norm_mul, ← norm_mul]; exact norm_add_le _ _
      _ ≤ 1 * (n * ‖z - w‖) + ‖z - w‖ * 1 := by
        gcongr
        exact pow_le_one₀ (norm_nonneg w) hw
      _ = ((n + 1 : ℕ) : ℝ) * ‖z - w‖ := by push_cast; ring

theorem abs_sin_sub_taylor_pow_le (n : ℕ) :
    |Real.sin n - ((taylorNumerator ^ n).im : ℝ) / (Nat.factorial 19 ^ n : ℕ)| ≤ n * (1 / 10 ^ 18) := by
  have hsin : Real.sin n = (Complex.exp Complex.I ^ n).im := by
    rw [← Complex.exp_nat_mul, ← Complex.ofReal_natCast, Complex.exp_ofReal_mul_I_im]
  have him : ((taylorNumerator ^ n).im : ℝ) / (Nat.factorial 19 ^ n : ℕ) = (taylorExpI ^ n).im := by
    rw [taylorExpI_eq, div_pow, ← map_pow, intCast_im, ← Nat.cast_pow, Complex.div_natCast_im]
  rw [hsin, him, ← Complex.sub_im]
  calc |(_ - _ : ℂ).im| ≤ _ := Complex.abs_im_le_norm _
    _ ≤ _ := norm_pow_sub_pow_le (by simp [Complex.norm_exp]) norm_taylorExpI_le_one n
    _ ≤ n * (1 / 10 ^ 18) := by gcongr; exact norm_exp_I_sub_taylorExpI_le

/-- Each word of R152's table and the power of the polynomial it stands for, scaled by 2^32, with a margin of 1/1000. -/
theorem K_between_taylor_pow : ∀ i : Fin 64,
    (1000 * (K i).toNat + 1) * Nat.factorial 19 ^ (i.val + 1) ≤
      1000 * 2 ^ 32 * (taylorNumerator ^ (i.val + 1)).im.natAbs ∧
    1000 * 2 ^ 32 * (taylorNumerator ^ (i.val + 1)).im.natAbs <
      (1000 * (K i).toNat + 999) * Nat.factorial 19 ^ (i.val + 1) := by decide

theorem K_le_abs_sin_lt (i : Fin 64) : ((K i).toNat : ℝ) ≤ |Real.sin (i.val + 1)| * 2 ^ 32 ∧
    |Real.sin (i.val + 1)| * 2 ^ 32 < (K i).toNat + 1 := by
  obtain ⟨hlow, hhigh⟩ := K_between_taylor_pow i
  set y := (taylorNumerator ^ (i.val + 1)).im
  set d := Nat.factorial 19 ^ (i.val + 1)
  have hpos : (0 : ℝ) < d := by positivity
  have habs : |(y : ℝ) / d| = y.natAbs / d := by rw [abs_div, Nat.abs_cast, Nat.cast_natAbs, Int.cast_abs]
  have hlow' : (1000 * (K i).toNat + 1 : ℝ) ≤ 1000 * 2 ^ 32 * |(y : ℝ) / d| := by
    rw [habs, ← mul_div_assoc, le_div_iff₀ hpos]; exact_mod_cast hlow
  have hhigh' : 1000 * 2 ^ 32 * |(y : ℝ) / d| < 1000 * (K i).toNat + 999 := by
    rw [habs, ← mul_div_assoc, div_lt_iff₀ hpos]; exact_mod_cast hhigh
  have herr : |(|Real.sin (i.val + 1)| - |(y : ℝ) / d|)| ≤ 64 * (1 / 10 ^ 18) :=
    calc _ ≤ |Real.sin (i.val + 1) - (y : ℝ) / d| := abs_abs_sub_abs_le _ _
      _ ≤ ((i.val + 1 : ℕ) : ℝ) * (1 / 10 ^ 18) := by
        exact_mod_cast abs_sin_sub_taylor_pow_le (i.val + 1)
      _ ≤ 64 * (1 / 10 ^ 18) := by gcongr; exact_mod_cast i.isLt
  rw [abs_le] at herr
  constructor <;> linarith

/-- Settles O42: the sine is nearer to the polynomial's power than that power is to the next integers. -/
theorem constantRomIsScaledSine : Obligations.ConstantRomIsScaledSine := by
  intro i
  have hfloor : ⌊|Real.sin (i.val + 1)| * 2 ^ 32⌋₊ = (K i).toNat :=
    (Nat.floor_eq_iff (by positivity)).mpr (K_le_abs_sin_lt i)
  rw [hfloor, Nat.mod_eq_of_lt (K i).isLt]

end Sys2Proof.Machine
end

section
/-! SUPPORT. 32-bit word arithmetic (43_word_arithmetic.md): sums in any order, the rotation as a map of bit positions,
and the mixing functions one bit at a time. -/

namespace Sys2Proof.Machine

theorem add32s_eq_foldl (l : List Word) : add32s l = l.foldl add32 0 := by
  have hadd : add32 = (· + ·) := funext₂ add32_eq_add
  rw [add32s_eq_sum, hadd, List.sum_eq_foldl]

theorem add32s_perm {l l' : List Word} (h : l.Perm l') : add32s l = add32s l' := by
  rw [add32s_eq_sum, add32s_eq_sum, h.sum_eq]

/-- Settles O39: `add32` is the addition of bit vectors, which is commutative and associative. -/
theorem modularAdditionInAnyOrder : Obligations.ModularAdditionInAnyOrder :=
  ⟨fun a b => by rw [add32_eq_add, BitVec.toNat_add], add32s_eq_foldl, fun _ _ => add32s_perm, by decide⟩

/-- R172's second form, { x[31-s:0], x[31:32-s] }: bit i of the result stands s places lower in x, cyclically. -/
theorem rotl32_getLsbD (x : Word) (s : RotAmount) {i : Nat} (hi : i < 32) :
    (rotl32 x s).getLsbD i = x.getLsbD ((i + (32 - s.val)) % 32) := by
  obtain ⟨s, hpos, hle⟩ := s
  rw [rotl32_eq_rotateLeft, BitVec.getLsbD_rotateLeft, Nat.mod_eq_of_lt (by omega : s < 32)]
  by_cases h : i < s
  · rw [show (i + (32 - s)) % 32 = 32 - s + i by omega]; simp [h]
  · rw [show (i + (32 - s)) % 32 = i - s by omega]; simp [h, hi]

theorem rotl32_getLsbD_mod (x : Word) (s : RotAmount) {j : Nat} (hj : j < 32) :
    (rotl32 x s).getLsbD ((j + s.val) % 32) = x.getLsbD j := by
  have hs : s.val ≤ 31 := s.property.2
  rw [rotl32_getLsbD x s (Nat.mod_lt _ (by decide)), show ((j + s.val) % 32 + (32 - s.val)) % 32 = j by omega]

theorem rotl32_toNat (x : Word) (s : RotAmount) :
    (rotl32 x s).toNat = ((x.toNat <<< s.val) ||| (x.toNat >>> (32 - s.val))) % 2 ^ 32 := by
  have hright : x.toNat >>> (32 - s.val) < 2 ^ 32 := Nat.lt_of_le_of_lt (Nat.shiftRight_le _ _) x.isLt
  rw [Nat.or_mod_two_pow, Nat.mod_eq_of_lt hright]
  rfl

theorem rotl32_allOnes (s : RotAmount) : rotl32 0xffffffff s = 0xffffffff := by
  apply BitVec.eq_of_getLsbD_eq
  intro i hi
  show (rotl32 (BitVec.allOnes 32) s).getLsbD i = (BitVec.allOnes 32).getLsbD i
  rw [rotl32_getLsbD _ s hi, BitVec.getLsbD_allOnes, BitVec.getLsbD_allOnes]
  simp [hi, Nat.mod_lt]

theorem rotl32_zero (s : RotAmount) : rotl32 0 s = 0 := by simp [rotl32]

/-- Settles O40: by the position each bit comes from. -/
theorem rotationKeepsAllBits : Obligations.RotationKeepsAllBits := fun x s =>
  ⟨fun _ => rotl32_getLsbD_mod x s, rotl32_toNat x s, rotl32_allOnes s, rotl32_zero s⟩

section
variable (B C D : Word) {j : Nat} (hj : j < 32)
include hj

theorem not32_getLsbD : (not32 B).getLsbD j = !B.getLsbD j := by
  simp [not32_eq_not, hj]

theorem F0_getLsbD : (F0 B C D).getLsbD j = if B.getLsbD j then C.getLsbD j else D.getLsbD j := by
  rw [F0, BitVec.getLsbD_or, BitVec.getLsbD_and, BitVec.getLsbD_and, not32_getLsbD B hj]
  cases B.getLsbD j <;> simp

/-- F1 is F0 with D as the selector (R176). -/
theorem F1_getLsbD : (F1 B C D).getLsbD j = if D.getLsbD j then B.getLsbD j else C.getLsbD j :=
  F0_getLsbD D B C hj

theorem F3_getLsbD : (F3 B C D).getLsbD j = (C.getLsbD j ^^ (B.getLsbD j || !D.getLsbD j)) := by
  rw [F3, BitVec.getLsbD_xor, BitVec.getLsbD_or, not32_getLsbD D hj]

end

theorem F2_getLsbD (B C D : Word) (j : Nat) :
    (F2 B C D).getLsbD j = (B.getLsbD j ^^ C.getLsbD j ^^ D.getLsbD j) := by
  rw [F2, BitVec.getLsbD_xor, BitVec.getLsbD_xor]

/-- Settles O41: each function acts on the bits of one position (R174). -/
theorem mixingFunctionsBitByBit : Obligations.MixingFunctionsBitByBit := fun B C D j hj =>
  ⟨F0_getLsbD B C D hj, F1_getLsbD B C D hj, F2_getLsbD B C D j, F3_getLsbD B C D hj⟩

end Sys2Proof.Machine
end

section
/-! SUPPORT. The engine's two steps (44_round_loop.md R193 to R197), each as the whole next block. -/

namespace Sys2Proof.Machine

theorem Block.engineStep_round {b : Block} {i : Fin 64} (h : b.rnd.val = i.val) : b.engineStep = b.roundStep i := by
  have hlt : b.rnd.val < 64 := h ▸ i.isLt
  rw [Block.engineStep, dif_pos hlt]
  exact congrArg b.roundStep (Fin.ext h)

theorem Block.engineStep_last {b : Block} (h : b.rnd = 64) : b.engineStep = b.accumulateStep :=
  dif_neg (by simp [h])

theorem Block.accumulateStep_to_open {b : Block} (h : b.run_next = .TO_OPEN) :
    b.accumulateStep = { b.setChain (b.chain.add b.saved) with phase := .OPEN } := by
  simp only [Block.accumulateStep, h]

theorem Block.accumulateStep_to_done {b : Block} (h : b.run_next = .TO_DONE) :
    b.accumulateStep = { b.setChain (b.chain.add b.saved) with phase := .DONE } := by
  simp only [Block.accumulateStep, h]

theorem Block.accumulateStep_to_pad2 {b : Block} (h : b.run_next = .TO_PAD2) :
    b.accumulateStep =
      (b.setChain (b.chain.add b.saved)).blockStart (finalBlockSecond b.BITLEN) .TO_DONE := by
  simp only [Block.accumulateStep, h]

/-- Whatever follows, A..D are the sum (R197). -/
theorem Block.accumulateStep_chain (b : Block) : b.accumulateStep.chain = b.chain.add b.saved := by
  unfold Block.accumulateStep
  split <;> rfl

theorem step_engine_of_run {s : State} (hagent : s.nextAgent = .engine) (hrst : s.rst = false)
    (hrun : s.blk.phase = .RUN) : step s = .next ((s.setTurns s.turns.tail).setBlk s.blk.engineStep) :=
  step_engine (nextIsEngine_of_run hagent hrst hrun)

/-- The round groups by the range of the round index (R157, R175 to R179). -/
theorem Fq_q (i : Fin 64) (B C D : Word) : Fq (q i) B C D =
    if i.val < 16 then (B &&& C) ||| (~~~B &&& D) else if i.val < 32 then (D &&& B) ||| (~~~D &&& C)
    else if i.val < 48 then B ^^^ C ^^^ D else C ^^^ (B ||| ~~~D) := by
  simp only [← not32_eq_not]
  split_ifs with h0 h1 h2
  · rw [show q i = 0 by apply Fin.ext; show i.val / 16 = 0; omega]; rfl
  · rw [show q i = 1 by apply Fin.ext; show i.val / 16 = 1; omega]; rfl
  · rw [show q i = 2 by apply Fin.ext; show i.val / 16 = 2; omega]; rfl
  · rw [show q i = 3 by apply Fin.ext; show i.val / 16 = 3; omega]; rfl

/-- A round in the arithmetic of bit vectors (R193). -/
theorem roundFn_eq (X : Vector Word 16) (c : Chain) (i : Fin 64) : roundFn X c i =
    ⟨c.D, c.B + (Fq (q i) c.B c.C c.D + c.A + K i + X.get (g i)).rotateLeft (S i).val, c.B, c.C⟩ := by
  simp [roundFn, add32_eq_add, add32s_eq_sum, rotl32_eq_rotateLeft, add_assoc]

/-- Settles O44: the step is the round step, and `roundFn_eq` is R193's formula. -/
theorem roundStepRewritesTheWorkingState : Obligations.RoundStepRewritesTheWorkingState := by
  intro s i hagent hrst hrun hi
  rw [step_engine_of_run hagent hrst hrun, Block.engineStep_round hi, Block.roundStep, roundFn_eq, Fq_q]
  rfl

/-- In RUN a block start leaves the phase as it is. -/
theorem Block.blockStart_of_run {b : Block} (h : b.phase = .RUN) (blk : List Byte) (nxt : RunNext) :
    b.blockStart blk nxt = { b with
      X := blockWords blk, AA := b.A, BB := b.B, CC := b.C, DD := b.D, rnd := 0, run_next := nxt } := by
  rw [Block.blockStart, ← h]

theorem Chain.add_eq (c d : Chain) : c.add d = ⟨c.A + d.A, c.B + d.B, c.C + d.C, c.D + d.D⟩ := by
  simp only [Chain.add, add32_eq_add]

/-- The words of the second padding block: zeros, and the length field in the last two (41_padding.md R137). -/
theorem blockWords_finalBlockSecond (L : Word64) (j : Fin 16) : (blockWords (finalBlockSecond L)).get j =
    if j.val < 14 then 0 else if j.val = 14 then L.extractLsb' 0 32 else L.extractLsb' 32 32 := by
  obtain ⟨hlow, hhigh⟩ := blockWords_lengthField (zeros_length 56) L
  split_ifs with hzero h14
  · have hslice : slice (zeros 56) (4 * j.val) (4 * j.val + 4) = zeros 4 := by
      have hcount : min (4 * j.val + 4 - 4 * j.val) (56 - 4 * j.val) = 4 := by omega
      rw [slice, zeros, List.drop_replicate, List.take_replicate, hcount, zeros]
    rw [blockWords_get, finalBlockSecond, slice_append_left _ _ _ _ (by rw [zeros_length]; omega), hslice]
    rfl
  · rw [show j = 14 by apply Fin.ext; exact h14]; exact hlow
  · rw [show j = 15 by apply Fin.ext; show j.val = 15; omega]; exact hhigh

/-- Settles O45, by the three values of `run_next`. -/
theorem accumulateStepEndsOrContinuesTheRun : Obligations.AccumulateStepEndsOrContinuesTheRun := by
  intro s hagent hrst hrun hlast
  rw [step_engine_of_run hagent hrst hrun, Block.engineStep_last hlast]
  refine ⟨fun hnext => ?_, fun hnext => ?_, fun hnext => ?_⟩
  · rw [Block.accumulateStep_to_open hnext, Chain.add_eq]; rfl
  · rw [Block.accumulateStep_to_done hnext, Chain.add_eq]; rfl
  · rw [Block.accumulateStep_to_pad2 hnext, Chain.add_eq, Block.blockStart_of_run (b := s.blk.setChain _) hrun]
    exact ⟨_, rfl, rfl, blockWords_finalBlockSecond s.blk.BITLEN⟩

end Sys2Proof.Machine
end

section
/-! SUPPORT. Engine and host beside each other in phase RUN (44_round_loop.md R198, R199): what neither touches of the
other's registers. -/

namespace Sys2Proof.Machine

theorem engineTurn_of_not_run {s : State} (h : s.blk.phase ≠ .RUN) : engineTurn s = s :=
  if_neg (by simp [State.engineEnabled, Block.engineEnabled, h])

/-- The engine's step writes none of the host's registers (R198). -/
theorem EngineMove.host_registers {b c : Block} (h : EngineMove b c) :
    c.DATA_IN = b.DATA_IN ∧ c.M = b.M ∧ c.BITLEN = b.BITLEN ∧ c.ERRCODE = b.ERRCODE := by
  cases h with
  | round | toOpen | toPad2 | toDone => exact ⟨rfl, rfl, rfl, rfl⟩

/-- The block with other contents in the host's registers. -/
def Block.withHostRegisters (b : Block) (d : Word) (m : List Byte) (l : Word64) (e : ErrCode) : Block :=
  { b with DATA_IN := d, M := m, BITLEN := l, ERRCODE := e }

/-- The engine's step reads none of the host's registers, but BITLEN where it starts the second padding block (R198). -/
theorem Block.engineStep_withHostRegisters {b : Block} (d : Word) (m : List Byte) {l : Word64} (e : ErrCode)
    (h : b.rnd.val < 64 ∨ b.run_next ≠ .TO_PAD2 ∨ l = b.BITLEN) :
    (b.withHostRegisters d m l e).engineStep = b.engineStep.withHostRegisters d m l e := by
  set b' := b.withHostRegisters d m l e
  by_cases hlt : b.rnd.val < 64
  · have hi : b.rnd.val = (⟨_, hlt⟩ : Fin 64).val := rfl
    rw [Block.engineStep_round hi, Block.engineStep_round (b := b') hi]; rfl
  · have hlast := Block.rnd_eq_last hlt
    rw [Block.engineStep_last hlast, Block.engineStep_last (b := b') hlast]
    cases hnext : b.run_next with
    | TO_OPEN =>
      rw [Block.accumulateStep_to_open hnext, Block.accumulateStep_to_open (b := b') hnext]; rfl
    | TO_DONE =>
      rw [Block.accumulateStep_to_done hnext, Block.accumulateStep_to_done (b := b') hnext]; rfl
    | TO_PAD2 =>
      obtain rfl : l = b.BITLEN := by simpa [hlt, hnext] using h
      rw [Block.accumulateStep_to_pad2 hnext, Block.accumulateStep_to_pad2 (b := b') hnext]; rfl

/-- Settles O46: no step outside RUN, and the engine's step neither reads nor writes the host's registers. -/
theorem engineIgnoresHostRegisters : Obligations.EngineIgnoresHostRegisters :=
  ⟨fun _ => engineTurn_of_not_run, fun b d m _ e h =>
    ⟨Block.engineStep_withHostRegisters d m e h, b.engineStep_move.host_registers⟩⟩

/-- In RUN every command is rejected (60_exceptions.md R243). -/
theorem acceptedIn_run (i : Instr) : acceptedIn i .RUN = false := by
  cases i <;> rfl

/-- Settles O47: of the moves of the step, RUN rules out the command, and the premises rule out the engine's and the reset
step. -/
theorem hostCannotDisturbARun : Obligations.HostCannotDisturbARun := by
  intro s t hrun hengine hreset hstep
  cases step_moves hstep with
  | engine hk => exact nomatch hk.engine.symm.trans hengine
  | reset hk => exact nomatch hk.reset.symm.trans hreset
  | command _ _ _ hacc => rw [hrun, acceptedIn_run] at hacc; cases hacc
  | rejected hk _ _ _ _ ht =>
    subst ht
    refine ⟨?_, hk.cmd⟩
    rw [State.raiseError_blk, Block.raiseError_eq]
    rfl
  | dataIn hk _ _ _ ht => subst ht; exact ⟨rfl, hk.cmd⟩
  | quiet hk hblk => exact ⟨by rw [hblk], hk.cmd⟩

end Sys2Proof.Machine
end

section
/-! SUPPORT. A whole RUN (44_round_loop.md R195, R200): how many engine steps are left of it, and the chaining state it
computes. -/

namespace Sys2Proof.Machine

/-- How many engine steps are left of the RUN: the rounds from rnd on and the accumulate step, and as many as a whole
block takes where a second padding block follows (R200). -/
def Block.stepsLeft (b : Block) : Nat :=
  if b.phase = .RUN then 65 - b.rnd.val + (if b.run_next = .TO_PAD2 then 65 else 0) else 0

theorem Block.stepsLeft_of_run {b : Block} (h : b.phase = .RUN) :
    b.stepsLeft = 65 - b.rnd.val + (if b.run_next = .TO_PAD2 then 65 else 0) := if_pos h

theorem Block.stepsLeft_of_not_run {b : Block} (h : b.phase ≠ .RUN) : b.stepsLeft = 0 := if_neg h

theorem Block.run_iff_stepsLeft_pos {b : Block} : b.phase = .RUN ↔ 0 < b.stepsLeft := by
  by_cases h : b.phase = .RUN
  · simp [Block.stepsLeft_of_run h, h]
  · simp [Block.stepsLeft_of_not_run h, h]

theorem Block.stepsLeft_le (b : Block) : b.stepsLeft ≤ 130 := by
  unfold Block.stepsLeft
  split_ifs <;> omega

/-- Each engine step of a RUN is one of those left: a round takes rnd up by one, and the accumulate step leaves RUN or
starts the second padding block. -/
theorem Block.stepsLeft_engineStep {b : Block} (hrun : b.phase = .RUN) : b.stepsLeft = b.engineStep.stepsLeft + 1 := by
  rw [Block.stepsLeft_of_run hrun]
  rcases b.engineStep_cases with ⟨hlt, e⟩ | ⟨hlast, e⟩ <;> rw [e]
  · rw [Block.stepsLeft_of_run (by simpa using hrun)]
    show _ = 65 - (b.rnd.val + 1) + (if b.run_next = .TO_PAD2 then 65 else 0) + 1
    omega
  · cases hnext : b.run_next with
    | TO_OPEN => rw [Block.accumulateStep_to_open hnext, Block.stepsLeft_of_not_run (by simp)]; simp [hlast]
    | TO_DONE => rw [Block.accumulateStep_to_done hnext, Block.stepsLeft_of_not_run (by simp)]; simp [hlast]
    | TO_PAD2 => rw [Block.accumulateStep_to_pad2 hnext, Block.stepsLeft_of_run rfl]; simp [hlast]

theorem Block.stepsLeft_engineSteps {b : Block} {k : Nat} (h : k ≤ b.stepsLeft) :
    (Block.engineSteps k b).stepsLeft = b.stepsLeft - k := by
  induction k generalizing b with
  | zero => rfl
  | succ k ih =>
    have hstep := Block.stepsLeft_engineStep (Block.run_iff_stepsLeft_pos.mpr (by omega : 0 < b.stepsLeft))
    show (Block.engineSteps k b.engineStep).stepsLeft = _
    rw [ih (by omega)]
    omega

/-- The RUN lasts exactly the steps left. -/
theorem Block.run_lasts_stepsLeft (b : Block) : (∀ k < b.stepsLeft, (Block.engineSteps k b).phase = .RUN) ∧
    (Block.engineSteps b.stepsLeft b).phase ≠ .RUN := by
  refine ⟨fun k hk => ?_, fun hrun => ?_⟩
  · rw [Block.run_iff_stepsLeft_pos, Block.stepsLeft_engineSteps hk.le]
    omega
  · rw [Block.run_iff_stepsLeft_pos, Block.stepsLeft_engineSteps le_rfl] at hrun
    omega

theorem Block.stepsLeft_blockStart (b : Block) (blk : List Byte) (nxt : RunNext) :
    (b.blockStart blk nxt).stepsLeft = if nxt = .TO_PAD2 then 130 else 65 := by
  cases nxt <;> rfl

/-- The count of R200 for the RUN a command begins. -/
theorem CommandMove.stepsLeft {b c : Block} {i : Instr} (h : CommandMove b i c) (hrun : c.phase = .RUN) :
    c.stepsLeft = if i = .finish ∧ 55 < b.M.length then 130 else 65 := by
  cases h with
  | init => cases hrun
  | absorbAppends hopen => exact nomatch hopen.symm.trans hrun
  | absorbFormsBlock => rw [Block.stepsLeft_blockStart]; simp
  | finishOne _ hlen => rw [Block.stepsLeft_blockStart]; simp [Nat.not_lt.mpr hlen]
  | finishTwo _ hlen => rw [Block.stepsLeft_blockStart]; simp [hlen]

/-- Settles O48: a RUN lasts the steps left at its start, which the command that begins it fixes. -/
theorem runLastsItsCountOfEngineSteps : Obligations.RunLastsItsCountOfEngineSteps := by
  refine ⟨fun i s t hexec hopen hrun => ?_, fun b _ => ⟨b.stepsLeft, b.stepsLeft_le, b.run_lasts_stepsLeft.2⟩⟩
  cases exec_move hexec with
  | performed hm =>
    dsimp only
    rw [← hm.stepsLeft hrun]
    exact Block.run_lasts_stepsLeft _
  | rejected => rw [State.raiseError_blk, Block.raiseError_phase, hopen] at hrun; cases hrun

/-- Where A..D are the rounds done so far, k steps take the block to the end of its rounds. -/
theorem Block.engineSteps_to_last {b : Block} {k : Nat} (hk : b.rnd.val + k = 64) (hworking : b.chain = b.roundsDone) :
    Block.engineSteps k b = { b.setChain (rounds b.X b.saved) with rnd := 64 } := by
  induction k generalizing b with
  | zero =>
    have hlast : b.rnd = 64 := Fin.ext hk
    rw [← Block.roundsDone_last hlast, ← hworking, ← hlast]
    rfl
  | succ k ih =>
    have hi : b.rnd.val < 64 := by omega
    have hround := Block.engineStep_round (b := b) (i := ⟨_, hi⟩) rfl
    have hworking' : (b.roundStep ⟨_, hi⟩).chain = (b.roundStep ⟨_, hi⟩).roundsDone := by
      rw [Block.roundStep_roundsDone rfl, ← hworking, Block.roundStep_chain]
    show Block.engineSteps k b.engineStep = _
    rw [hround, ih (by simp; omega) hworking']
    rfl

theorem Block.engineSteps_one (b : Block) : Block.engineSteps 1 b = b.engineStep := rfl

/-- The 65 engine steps of one block: all the rounds from A..D, then the accumulate step. -/
theorem Block.engineSteps_blockStart (b : Block) (blk : List Byte) (nxt : RunNext) :
    Block.engineSteps 65 (b.blockStart blk nxt) =
      ({ (b.blockStart blk nxt).setChain (rounds (blockWords blk) b.chain) with rnd := 64 } : Block).accumulateStep := by
  have hrounds : Block.engineSteps 64 (b.blockStart blk nxt) = _ :=
    Block.engineSteps_to_last rfl (b.blockStart_roundsDone blk nxt).symm
  rw [Block.engineSteps_add 64 1, hrounds, Block.engineSteps_one, Block.engineStep_last rfl]
  rfl

theorem Block.chain_engineSteps_blockStart (b : Block) (blk : List Byte) (nxt : RunNext) :
    (Block.engineSteps 65 (b.blockStart blk nxt)).chain = compress b.chain blk := by
  rw [Block.engineSteps_blockStart, Block.accumulateStep_chain]
  rfl

/-- The first padding block ends with the start of the second, on the A..D just accumulated (R197). -/
theorem Block.engineSteps_blockStart_pad2 (b : Block) (blk : List Byte) :
    ∃ c : Block, c.chain = compress b.chain blk ∧
      Block.engineSteps 65 (b.blockStart blk .TO_PAD2) = c.blockStart (finalBlockSecond b.BITLEN) .TO_DONE :=
  ⟨_, rfl, (b.engineSteps_blockStart blk .TO_PAD2).trans (Block.accumulateStep_to_pad2 rfl)⟩

/-- Settles O49: one block by its 65 steps, and two by chaining the second from the first. -/
theorem runComputesTheCompressionFunction : Obligations.RunComputesTheCompressionFunction := by
  refine fun b blk nxt => ⟨b.chain_engineSteps_blockStart blk nxt, ?_⟩
  obtain ⟨c, hchain, hpad2⟩ := b.engineSteps_blockStart_pad2 blk
  rw [Block.engineSteps_add 65 65, hpad2, Block.chain_engineSteps_blockStart, hchain]

end Sys2Proof.Machine
end

section
/-! SUPPORT. The digest of a finished message (45_digest.md R224, R225): what the DIGEST, LEN and STATUS registers show of a
block that is on its way with the whole message. -/

namespace Sys2Proof.Machine

/-- Outside RUN a block on its way has its message open, or finished and done. -/
theorem Block.Tracks.open_of_not_run {b : Block} {m : List Byte} (h : b.Tracks m false) (hrun : b.phase ≠ .RUN) :
    b.phase = .OPEN := by
  cases hp : b.phase with
  | IDLE => exact absurd hp h.phase
  | OPEN => rfl
  | RUN => exact absurd hp hrun
  | DONE => exact nomatch (h.done hp).1

theorem Block.Tracks.done_of_not_run {b : Block} {m : List Byte} (h : b.Tracks m true) (hrun : b.phase ≠ .RUN) :
    b.phase = .DONE := by
  cases hp : b.phase with
  | IDLE => exact absurd hp h.phase
  | OPEN => exact nomatch (h.opened hp).1
  | RUN => exact absurd hp hrun
  | DONE => rfl

/-- The DIGEST words of a finished block are the digest's (R220, R221). -/
theorem Block.Tracks.digest {b : Block} {m : List Byte} {fin : Bool} (h : b.Tracks m fin) (hdone : b.phase = .DONE) :
    digestOfWords (b.readRegister 0x20) (b.readRegister 0x24) (b.readRegister 0x28) (b.readRegister 0x2C) = MD5 m := by
  obtain ⟨-, -, hchain⟩ := h.done hdone
  have hwords : digestOfWords (b.readRegister 0x20) (b.readRegister 0x24) (b.readRegister 0x28) (b.readRegister 0x2C) =
      digestBytes b.chain := by
    simp [Block.readRegister, Block.DIGEST, hdone, digestOfWords, digestBytes, Block.chain]
  rw [hwords, hchain, MD5]

theorem State.Tracks.digest {s : State} {m : List Byte} {fin : Bool} (h : s.Tracks m fin) (hdone : s.blk.phase = .DONE) :
    digestOfWords (s.memRead 0x20) (s.memRead 0x24) (s.memRead 0x28) (s.memRead 0x2C) = MD5 m := by
  simp only [State.memRead_of_rst_low h.rst]
  exact h.blk.digest hdone

/-- In DONE, with an empty buffer and no error, of STATUS only bit 1 is set (R37). -/
theorem Block.STATUS_of_done {b : Block} (hdone : b.phase = .DONE) (hM : b.M = []) (herr : b.ERRCODE = .NONE) :
    b.STATUS = 0x00000002 := by
  apply BitVec.eq_of_toNat_eq
  simp [b.STATUS_toNat, Block.flagBUSY, Block.flagDONE, Block.flagOPEN, Block.flagERR, Block.FILL, ErrCode.bits, hdone, hM,
    herr]

/-- Settles O54: a delivered message is on its way, and DONE is its only phase out of RUN once it is finished. -/
theorem finishedDigestIsMd5 : Obligations.FinishedDigestIsMd5 := by
  intro s m hdelivered
  have h := hdelivered.tracks
  refine ⟨or_iff_not_imp_left.mpr h.blk.done_of_not_run, fun hdone => ⟨h.digest hdone, ?_, fun herr => ?_⟩⟩
  · simp only [State.memRead_of_rst_low h.rst]
    rw [s.blk.readRegister_bitlen, h.blk.bitlen, lengthField, BitVec.toNat_ofNat]
  · obtain ⟨-, hM, -⟩ := h.blk.done hdone
    exact (State.memRead_of_rst_low h.rst 0x04).trans (Block.STATUS_of_done hdone hM herr)

end Sys2Proof.Machine
end

section
/-! SUPPORT. The end of a RUN under any turns (44_round_loop.md R200, 70_reset_and_hazards.md R280): each step uses up a turn
given or one of the engine steps left, and a host inside the bus contract that leaves `rst` alone cannot stop it. -/

namespace Sys2Proof.Machine

/-- How many steps the RUN can last at most: each turn given may be the host's, and after them the engine moves. -/
def State.patience (s : State) : Nat := s.turns.length + s.blk.stepsLeft

theorem State.patience_le (s : State) : s.patience ≤ s.turns.length + 130 :=
  Nat.add_le_add_left s.blk.stepsLeft_le _

/-- In RUN with `rst` low the engine waits only for turns that are given (R280). -/
theorem turns_ne_nil_of_engine_waits {s : State} (hrun : s.blk.phase = .RUN) (hrst : s.rst = false)
    (hwaits : s.nextIsEngine = false) : s.turns ≠ [] := by
  intro hnil
  have henabled : s.engineEnabled = true := by simp [State.engineEnabled, Block.engineEnabled, hrun, hrst]
  simp [State.nextIsEngine, State.nextAgent, hnil, henabled] at hwaits

/-- The steps left of a RUN are counted by three registers. -/
theorem Block.stepsLeft_congr {b c : Block} (hphase : c.phase = b.phase) (hrnd : c.rnd = b.rnd)
    (hnext : c.run_next = b.run_next) : c.stepsLeft = b.stepsLeft := by
  simp only [Block.stepsLeft, hphase, hrnd, hnext]

/-- A step that takes a turn and leaves the RUN as it is uses up patience. -/
theorem patience_lt_of_turn {s t : State} (hturns : s.turns ≠ []) (htail : t.turns = s.turns.tail)
    (hleft : t.blk.stepsLeft = s.blk.stepsLeft) : t.patience < s.patience := by
  have hlength := List.length_pos_of_ne_nil hturns
  rw [State.patience, State.patience, htail, hleft, List.length_tail]
  omega

/-- Every step of a RUN but a reset step uses up patience. -/
theorem patience_lt_of_step {s t : State} (hrun : s.blk.phase = .RUN) (hrst : s.rst = false)
    (hreset : s.nextIsReset = false) (hstep : step s = .next t) : t.patience < s.patience := by
  cases step_moves hstep with
  | engine _ _ _ ht =>
    subst ht
    have hleft := Block.stepsLeft_engineStep hrun
    have htail := s.turns.length_tail
    simp only [State.patience, State.setBlk_turns, State.setTurns_turns, State.setBlk_blk]
    omega
  | reset hk => exact nomatch hk.reset.symm.trans hreset
  | command _ _ _ hacc => rw [hrun, acceptedIn_run] at hacc; cases hacc
  | rejected hk _ _ _ _ ht =>
    subst ht
    exact patience_lt_of_turn (turns_ne_nil_of_engine_waits hrun hrst hk.engine) rfl
      (Block.stepsLeft_congr (by simp) (by simp) (by simp))
  | dataIn hk _ _ _ ht => subst ht; exact patience_lt_of_turn (turns_ne_nil_of_engine_waits hrun hrst hk.engine) rfl rfl
  | quiet hk hblk _ _ htail =>
    exact patience_lt_of_turn (turns_ne_nil_of_engine_waits hrun hrst hk.engine) htail (by rw [hblk])

/-- A RUN ends within its patience, given a P under which each of its steps is taken, is no reset and keeps P. -/
theorem run_ends_within_patience {P : State → Prop} (hlow : ∀ s, P s → s.rst = false)
    (hkeep : ∀ s, P s → s.blk.phase = .RUN → s.nextIsReset = false ∧ ∃ t, step s = .next t ∧ P t) {s : State} (hs : P s) :
    ∃ k t, k ≤ s.patience ∧ run k s = .next t ∧ P t ∧ t.blk.phase ≠ .RUN := by
  induction hn : s.patience using Nat.strong_induction_on generalizing s with
  | h n ih =>
    by_cases hrun : s.blk.phase = .RUN
    · obtain ⟨hreset, t, hstep, ht⟩ := hkeep s hs hrun
      have hlt := patience_lt_of_step hrun (hlow s hs) hreset hstep
      obtain ⟨k, u, hk, hrunk, hu⟩ := ih _ (hn ▸ hlt) ht rfl
      exact ⟨k + 1, u, by omega, (run_succ_next k hstep).trans hrunk, hu⟩
    · exact ⟨0, s, Nat.zero_le _, run_zero s, hs, hrun⟩

/-- A command performs or records an error: nothing but the block changes. -/
theorem exec_next_of_wf {i : Instr} (hwf : i.wf = true) (s : State) : ∃ b, exec i s = .next (s.setBlk b) := by
  rcases exec_cases i hwf s with ⟨_, e⟩ | ⟨_, _, e⟩ | ⟨_, _, e⟩ <;> exact ⟨_, e⟩

theorem memWrite_next (off : Nat) (v : Word) (s : State) : ∃ b, memWrite off v s = .next (s.setBlk b) := by
  rcases memWrite_cases off v s with ⟨_, e⟩ | ⟨_, _, e⟩ | ⟨_, _, e⟩ | ⟨_, _, _, e⟩
  · exact ⟨s.blk, e⟩
  · rcases ctrlWrite_cases v s with ⟨_, _, e'⟩ | ⟨i, _, hwf, e'⟩
    · exact ⟨_, e.trans e'⟩
    · obtain ⟨b, e''⟩ := exec_next_of_wf hwf s
      exact ⟨b, e.trans (e'.trans e'')⟩
  · exact ⟨_, e⟩
  · exact ⟨s.blk, e⟩

/-- A plain operation is taken, and leaves the host what it had after it, or the poll it repeats. -/
theorem hostOp_of_plain {op : HostOp} (hplain : op.plain = true) (s : State) :
    ∃ t, hostOp op s = .next t ∧ (t.host = s.host ∨ t.host = op :: s.host) := by
  cases op with
  | read a size =>
    cases hbus : busOffset a size with
    | ok off => exact ⟨_, hostOp_read hbus s, .inl rfl⟩
    | error r => simp [HostOp.plain, hbus] at hplain
  | write a size v =>
    cases hbus : busOffset a size with
    | ok off =>
      obtain ⟨b, e⟩ := memWrite_next off v s
      exact ⟨_, (hostOp_write hbus v s).trans e, .inl rfl⟩
    | error r => simp [HostOp.plain, hbus] at hplain
  | rst level => simp [HostOp.plain] at hplain
  | wait =>
    simp only [hostOp]
    split
    · exact ⟨_, rfl, .inr rfl⟩
    · exact ⟨_, rfl, .inl rfl⟩

theorem engineTurn_host (s : State) : (engineTurn s).host = s.host := by
  unfold engineTurn
  split <;> rfl

theorem step_engineTurn {s : State} (hagent : s.nextAgent = .engine) :
    step s = .next (engineTurn (s.setTurns s.turns.tail)) := by
  unfold step machineStep
  rw [hagent, turnOf]

theorem step_host_nil {s : State} (hagent : s.nextAgent = .host) (hhost : s.host = []) :
    step s = .next (s.setTurns s.turns.tail) := by
  unfold step machineStep
  rw [hagent, turnOf, hostTurn, State.setTurns_host, hhost]

theorem nextIsReset_of_plain {s : State} {op : HostOp} {ops : List HostOp} (hhost : s.host = op :: ops)
    (hop : op.plain = true) : s.nextIsReset = false := by
  unfold State.nextIsReset
  split
  next hhead => cases hhost.symm.trans hhead; cases hop
  next => rfl

/-- A plain host takes every step, resets nothing and stays plain. -/
theorem step_of_plain {s : State} (hplain : s.host.all HostOp.plain = true) :
    s.nextIsReset = false ∧ ∃ t, step s = .next t ∧ t.host.all HostOp.plain = true := by
  cases hagent : s.nextAgent with
  | engine =>
    refine ⟨by simp [State.nextIsReset, hagent], _, step_engineTurn hagent, ?_⟩
    rwa [engineTurn_host]
  | host =>
    cases hhost : s.host with
    | nil => exact ⟨by simp [State.nextIsReset, hagent, hhost], _, step_host_nil hagent hhost, hplain⟩
    | cons op ops =>
      rw [hhost, List.all_cons, Bool.and_eq_true] at hplain
      obtain ⟨hop, hops⟩ := hplain
      obtain ⟨t, hturn, ht⟩ := hostOp_of_plain hop ((s.setTurns s.turns.tail).setHost ops)
      refine ⟨nextIsReset_of_plain hhost hop, t, (step_host hagent hhost).trans hturn, ?_⟩
      rcases ht with ht | ht <;> simpa [ht, hop] using hops

/-- In RUN no command is performed (60_exceptions.md R243). -/
theorem nextAccepted_of_run {s : State} (hrun : s.blk.phase = .RUN) : s.nextAccepted = none := by
  unfold State.nextAccepted
  split
  · split
    · rw [hrun, acceptedIn_run]; rfl
    · rfl
  · rfl

/-- In RUN a message stays on its way, whatever a plain host does. -/
theorem State.Tracks.step_of_run {s t : State} {m : List Byte} {fin : Bool} (h : s.Tracks m fin)
    (hrun : s.blk.phase = .RUN) (hreset : s.nextIsReset = false) (hstep : step s = .next t) : t.Tracks m fin :=
  h.step_unaccepted hstep hreset (nextAccepted_of_run hrun)

/-- Settles O55: while the message is on its way in RUN every step keeps it so, and RUN ends within its patience. -/
theorem finishedMessageReachesDone : Obligations.FinishedMessageReachesDone := by
  intro s m hdelivered hplain
  obtain ⟨k, t, hk, hrunk, ⟨ht, -⟩, hleft⟩ := run_ends_within_patience
    (P := fun u => u.Tracks m true ∧ u.host.all HostOp.plain = true) (fun _ hu => hu.1.rst)
    (fun u ⟨hu, hhost⟩ hrun => by
      obtain ⟨hreset, t, hstep, ht⟩ := step_of_plain hhost
      exact ⟨hreset, t, hstep, hu.step_of_run hrun hreset hstep, ht⟩)
    ⟨hdelivered.tracks, hplain⟩
  have hdone := ht.blk.done_of_not_run hleft
  exact ⟨k, t, hk.trans s.patience_le, hrunk, hdone, ht.digest hdone⟩

end Sys2Proof.Machine
end

section
/-! SUPPORT. The hashing program line by line (30_encoding.md R92, 45_digest.md R224): each operation is performed once the
turns given come to the host, and between two lines the block is out of RUN and on its way with the bytes delivered. -/

namespace Sys2Proof.Machine

/-- Some number of steps takes the machine to a state where Q holds. -/
def Leads (s : State) (Q : State → Prop) : Prop := ∃ k t, run k s = .next t ∧ Q t

theorem Leads.refl {s : State} {Q : State → Prop} (h : Q s) : Leads s Q := ⟨0, s, run_zero s, h⟩

theorem Leads.of_run {s t : State} {k : Nat} {Q : State → Prop} (hk : run k s = .next t) (h : Leads t Q) : Leads s Q := by
  obtain ⟨j, u, hj, hu⟩ := h
  exact ⟨k + j, u, run_trans hk hj, hu⟩

theorem Leads.trans {s : State} {P Q : State → Prop} (h : Leads s P) (h' : ∀ t, P t → Leads t Q) : Leads s Q := by
  obtain ⟨k, t, hk, ht⟩ := h
  exact (h' t ht).of_run hk

/-- Outside RUN the turns of the engine pass without effect, and the host's turn comes (R280). -/
theorem exists_host_turn {s : State} (hrun : s.blk.phase ≠ .RUN) :
    ∃ k ts, run k s = .next (s.setTurns ts) ∧ (s.setTurns ts).nextAgent = .host := by
  induction hts : s.turns generalizing s with
  | nil =>
    refine ⟨0, s.turns, run_zero s, ?_⟩
    show s.nextAgent = .host
    simp [State.nextAgent, hts, State.engineEnabled, Block.engineEnabled, hrun]
  | cons a ts ih =>
    cases a with
    | host => exact ⟨0, s.turns, run_zero s, by simp [State.nextAgent, hts]⟩
    | engine =>
      obtain ⟨k, ts', hk, hagent⟩ := ih (s := s.setTurns s.turns.tail) hrun (by simp [hts])
      have hstep : step s = .next (s.setTurns s.turns.tail) := by
        rw [step_engineTurn (by simp [State.nextAgent, hts]), engineTurn_of_not_run (by exact hrun)]
      exact ⟨k + 1, ts', (run_succ_next k hstep).trans hk, hagent⟩

/-- Outside RUN the host's next operation is performed, on the machine as it is but for the turns. -/
theorem leads_of_hostOp {s : State} {op : HostOp} {ops : List HostOp} {Q : State → Prop} (hrun : s.blk.phase ≠ .RUN)
    (hhost : s.host = op :: ops) (hop : ∀ ts, ∃ t, hostOp op ((s.setTurns ts).setHost ops) = .next t ∧ Q t) :
    Leads s Q := by
  obtain ⟨k, ts, hk, hagent⟩ := exists_host_turn hrun
  obtain ⟨t, ht, hQ⟩ := hop ts.tail
  have hstep : step (s.setTurns ts) = .next t := (step_host hagent hhost).trans ht
  exact .of_run hk ⟨1, t, run_succ_next 0 hstep, hQ⟩

/-- Between two transactions of the hashing program: the block is on its way with m and no error, `ops` is to come. -/
structure State.Hashing (s : State) (m : List Byte) (fin : Bool) (ops : List HostOp) : Prop where
  tracks : s.Tracks m fin
  errcode : s.blk.ERRCODE = .NONE
  host : s.host = ops

/-- The same with the block out of RUN, as WAIT leaves it (70_reset_and_hazards.md R273). -/
structure State.Ready (s : State) (m : List Byte) (fin : Bool) (ops : List HostOp) : Prop
    extends s.Hashing m fin ops where
  not_run : s.blk.phase ≠ .RUN

/-- A command in its phase is performed. -/
theorem leads_of_command {s : State} {i : Instr} {ops : List HostOp} (hrst : s.rst = false) (hwf : i.wf = true)
    (hacc : acceptedIn i s.blk.phase = true) (hhost : s.host = WR .CTRL (encode i) :: ops) :
    Leads s fun t => t.blk = effectOf i s.blk ∧ t.rst = false ∧ t.host = ops := by
  have hrun : s.blk.phase ≠ .RUN := fun h => by rw [h, acceptedIn_run] at hacc; cases hacc
  refine leads_of_hostOp hrun hhost fun ts => ?_
  let u := (s.setTurns ts).setHost ops
  refine ⟨u.setBlk (effectOf i s.blk), ?_, rfl, hrst, rfl⟩
  calc hostOp (WR .CTRL (encode i)) u
      _ = memWrite 0x00 (encode i) u := hostOp_write rfl _ u
      _ = ctrlWrite (encode i) u := memWrite_ctrl (s := u) hrst _
      _ = exec i u := ctrlWrite_of_decode (decode_encode hwf) u
      _ = .next (u.setBlk (effectOf i s.blk)) := exec_accepted (s := u) hwf hacc

theorem leads_of_init {s : State} {ops : List HostOp} (hrst : s.rst = false) (hrun : s.blk.phase ≠ .RUN)
    (hhost : s.host = WR .CTRL (encode .init) :: ops) : Leads s (·.Ready [] false ops) :=
  (leads_of_command (i := .init) hrst rfl (decide_eq_true hrun) hhost).trans fun _ ⟨hblk, hlow, hops⟩ =>
    .refl ⟨⟨⟨hlow, hblk ▸ s.blk.openMessage_holds.tracks⟩, hblk ▸ rfl, hops⟩, hblk ▸ nofun⟩

/-- DATA_IN is written, and the block is where it was. -/
theorem State.Ready.leads_dataIn {s : State} {m : List Byte} {fin : Bool} {v : Word} {ops : List HostOp}
    (h : s.Ready m fin (WR .DATA_IN v :: ops)) : Leads s fun t => t.Ready m fin ops ∧ t.blk.DATA_IN = v := by
  refine leads_of_hostOp h.not_run h.host fun ts => ?_
  let u := (s.setTurns ts).setHost ops
  have hwrite : hostOp (WR .DATA_IN v) u = .next (u.setBlk { s.blk with DATA_IN := v }) :=
    (hostOp_write rfl v u).trans (memWrite_dataIn (s := u) h.tracks.rst v)
  have htracks := h.tracks.blk.set_dataIn_errcode v s.blk.ERRCODE
  exact ⟨_, hwrite, ⟨⟨⟨h.tracks.rst, htracks⟩, h.errcode, rfl⟩, h.not_run⟩, rfl⟩

/-- ABSORB or FINISH in OPEN: no error is raised, and the message goes on as the command's effect on the block says. -/
theorem State.Ready.leads_command {s : State} {i : Instr} {m m' : List Byte} {fin fin' : Bool} {ops : List HostOp}
    (h : s.Ready m fin (WR .CTRL (encode i) :: ops)) (hwf : i.wf = true) (hacc : acceptedIn i s.blk.phase = true)
    (htracks : (effectOf i s.blk).Tracks m' fin') : Leads s (·.Hashing m' fin' ops) := by
  have herr := (effectOf_move hwf hacc).errcode.elim id (·.trans h.errcode)
  exact (leads_of_command h.tracks.rst hwf hacc h.host).trans fun _ ⟨hblk, hlow, hops⟩ =>
    .refl ⟨⟨hlow, hblk ▸ htracks⟩, hblk ▸ herr, hops⟩

/-- ABSORB takes its bytes from DATA_IN. -/
theorem State.Ready.leads_absorb {s : State} {m : List Byte} {n : Nat} {ops : List HostOp}
    (h : s.Ready m false (WR .CTRL (encode (.absorb n)) :: ops)) (hwf : (Instr.absorb n).wf = true) :
    Leads s (·.Hashing (m ++ msgBytes s.blk.DATA_IN n) false ops) := by
  have hopen := h.tracks.blk.open_of_not_run h.not_run
  obtain ⟨-, hholds⟩ := h.tracks.blk.opened hopen
  exact h.leads_command hwf (decide_eq_true hopen) (hholds.absorb (wf_absorb_iff.mp hwf).2)

theorem State.Ready.leads_finish {s : State} {m : List Byte} {ops : List HostOp}
    (h : s.Ready m false (WR .CTRL (encode .finish) :: ops)) : Leads s (·.Hashing m true ops) := by
  have hopen := h.tracks.blk.open_of_not_run h.not_run
  obtain ⟨-, hholds⟩ := h.tracks.blk.opened hopen
  exact h.leads_command rfl (decide_eq_true hopen) hholds.finish

/-- While WAIT polls in RUN, either agent's step leaves the program where it is. -/
theorem State.Hashing.step_wait {s : State} {m : List Byte} {fin : Bool} {ops : List HostOp}
    (h : s.Hashing m fin (.wait :: ops)) (hrun : s.blk.phase = .RUN) :
    s.nextIsReset = false ∧ ∃ t, step s = .next t ∧ t.Hashing m fin (.wait :: ops) := by
  have hrst := h.tracks.rst
  cases hagent : s.nextAgent with
  | engine =>
    obtain ⟨-, -, -, herr⟩ := s.blk.engineStep_move.host_registers
    exact ⟨by simp [State.nextIsReset, hagent], _, step_engine_of_run hagent hrst hrun,
      ⟨hrst, h.tracks.blk.engineStep hrun⟩, herr.trans h.errcode, h.host⟩
  | host =>
    exact ⟨by simp [State.nextIsReset, hagent, h.host], _,
      (step_host hagent h.host).trans (hostOp_wait_of_run hrst hrun), ⟨hrst, h.tracks.blk⟩, h.errcode, rfl⟩

/-- WAIT ends, and leaves the block out of RUN. -/
theorem State.Hashing.leads_wait {s : State} {m : List Byte} {fin : Bool} {ops : List HostOp}
    (h : s.Hashing m fin (.wait :: ops)) : Leads s (·.Ready m fin ops) := by
  obtain ⟨k, t, -, hk, ht, hleft⟩ := run_ends_within_patience (P := (·.Hashing m fin (.wait :: ops)))
    (fun _ hu => hu.tracks.rst) (fun _ hu => hu.step_wait) h
  exact .of_run hk <| leads_of_hostOp hleft ht.host fun ts => ⟨_, hostOp_wait_of_not_run ht.tracks.rst hleft,
    ⟨⟨ht.tracks.rst, ht.tracks.blk⟩, ht.errcode, rfl⟩, hleft⟩

/-- Reads change nothing, and hand the registers' values to the host in order. -/
theorem leads_of_reads {rs : List Reg} {s : State} {ops : List HostOp} (hrst : s.rst = false)
    (hrun : s.blk.phase ≠ .RUN) (hbus : ∀ r ∈ rs, busOffset (.offset r.off) 4 = .ok r.off)
    (hhost : s.host = rs.map RD ++ ops) :
    Leads s fun t => t.blk = s.blk ∧ t.host = ops ∧
      t.reads = (rs.map fun r => s.blk.readRegister r.off).reverse ++ s.reads := by
  induction rs generalizing s with
  | nil => exact .refl ⟨rfl, hhost, rfl⟩
  | cons r rs ih =>
    rw [List.forall_mem_cons] at hbus
    have hread : Leads s fun t => t.blk = s.blk ∧ t.rst = false ∧ t.host = rs.map RD ++ ops ∧
        t.reads = s.blk.readRegister r.off :: s.reads :=
      leads_of_hostOp hrun hhost fun ts => ⟨_, hostOp_read hbus.1 _, rfl, hrst, rfl,
        congrArg (· :: s.reads) (State.memRead_of_rst_low hrst r.off)⟩
    refine hread.trans fun t ⟨hblk, hlow, hops, hreads⟩ => ?_
    have hrest := ih hlow (hblk ▸ hrun) hbus.2 hops
    simpa [hblk, hreads] using hrest

/-- A line that expands in front of lines that expand (R92). -/
theorem expandLines_cons {l : Line} {ls : List Line} {ops : List HostOp} (h : expandLines (l :: ls) = some ops) :
    ∃ front back, l.expand = some front ∧ expandLines ls = some back ∧ ops = front ++ back := by
  simp only [expandLines] at h
  split at h
  next front back hfront hback => cases h; exact ⟨front, back, hfront, hback, rfl⟩
  next => cases h

/-- A chunk's ABSORB line expands to two writes, where its byte count is one to four (R92). -/
theorem expand_absorbData {n : Nat} {v : Word} {ops : List HostOp} (h : (Line.absorbData n v).expand = some ops) :
    (Instr.absorb n).wf = true ∧ ops = [WR .DATA_IN v, WR .CTRL (encode (.absorb n))] := by
  simp only [Line.expand] at h
  split_ifs at h with hwf
  cases h
  exact ⟨hwf, rfl⟩

/-- The lines of the hashing program that deliver one chunk. -/
def chunkLines (c : Chunk) : List Line := [.absorbData c.n c.v, .wait]

/-- What one chunk's lines expand to. -/
def chunkOps (c : Chunk) : List HostOp := [WR .DATA_IN c.v, WR .CTRL (encode (.absorb c.n)), .wait]

theorem expandLines_chunkLines {c : Chunk} {ls : List Line} {ops : List HostOp}
    (h : expandLines (chunkLines c ++ ls) = some ops) :
    (Instr.absorb c.n).wf = true ∧ ∃ back, expandLines ls = some back ∧ ops = chunkOps c ++ back := by
  obtain ⟨front, tail, hfront, htail, rfl⟩ := expandLines_cons h
  obtain ⟨hwf, rfl⟩ := expand_absorbData hfront
  obtain ⟨wait, back, hwait, hback, rfl⟩ := expandLines_cons htail
  cases hwait
  exact ⟨hwf, back, hback, rfl⟩

/-- The reads READDIGEST makes. -/
def digestRegs : List Reg := [.DIGEST0, .DIGEST1, .DIGEST2, .DIGEST3]

/-- What the last lines of the hashing program expand to: FINISH, WAIT and READDIGEST. -/
def finishOps : List HostOp := WR .CTRL (encode .finish) :: .wait :: digestRegs.map RD

theorem expandLines_chunks {cs : List Chunk} {ls : List Line} {ops : List HostOp}
    (h : expandLines (cs.flatMap chunkLines ++ ls) = some ops) : (∀ c ∈ cs, (Instr.absorb c.n).wf = true) ∧
      ∃ back, expandLines ls = some back ∧ ops = cs.flatMap chunkOps ++ back := by
  induction cs generalizing ops with
  | nil => exact ⟨by simp, ops, h, rfl⟩
  | cons c cs ih =>
    rw [List.flatMap_cons, List.append_assoc] at h
    obtain ⟨hc, tail, htail, rfl⟩ := expandLines_chunkLines h
    obtain ⟨hcs, back, hback, rfl⟩ := ih htail
    exact ⟨List.forall_mem_cons.mpr ⟨hc, hcs⟩, back, hback, by simp⟩

/-- A hashing program that expands has chunks of one to four bytes, and expands to its lines' operations. -/
theorem expandLines_hashProgram {cs : List Chunk} {ops : List HostOp} (h : expandLines (hashProgram cs) = some ops) :
    (∀ c ∈ cs, (Instr.absorb c.n).wf = true) ∧
      ops = WR .CTRL (encode .init) :: (cs.flatMap chunkOps ++ finishOps) := by
  obtain ⟨front, tail, hfront, htail, rfl⟩ := expandLines_cons (ls := cs.flatMap chunkLines ++ _) h
  obtain ⟨hwf, back, hback, rfl⟩ := expandLines_chunks htail
  cases hfront
  cases hback
  exact ⟨hwf, rfl⟩

/-- One chunk: its word, its ABSORB and the WAIT after it. -/
theorem State.Ready.leads_chunk {s : State} {m : List Byte} {c : Chunk} {ops : List HostOp}
    (h : s.Ready m false (chunkOps c ++ ops)) (hwf : (Instr.absorb c.n).wf = true) :
    Leads s (·.Ready (m ++ msgBytes c.v c.n) false ops) :=
  h.leads_dataIn.trans fun _ ⟨ht, hdata⟩ => (ht.leads_absorb hwf).trans fun _ hu => hdata ▸ hu.leads_wait

/-- All the chunks: their bytes are delivered in order. -/
theorem State.Ready.leads_chunks {cs : List Chunk} {s : State} {m : List Byte} {ops : List HostOp}
    (h : s.Ready m false (cs.flatMap chunkOps ++ ops)) (hwf : ∀ c ∈ cs, (Instr.absorb c.n).wf = true) :
    Leads s (·.Ready (m ++ messageOf cs) false ops) := by
  induction cs generalizing s m with
  | nil => exact .refl (by simpa [messageOf] using h)
  | cons c cs ih =>
    rw [List.flatMap_cons, List.append_assoc] at h
    rw [List.forall_mem_cons] at hwf
    have hmessage : m ++ messageOf (c :: cs) = m ++ msgBytes c.v c.n ++ messageOf cs := by simp [messageOf]
    rw [hmessage]
    exact (h.leads_chunk hwf.1).trans fun _ ht => ih ht hwf.2

/-- The four reads of READDIGEST take the words of the digest, first to last. -/
theorem State.Ready.leads_readDigest {s : State} {m : List Byte} {ops : List HostOp}
    (h : s.Ready m true (digestRegs.map RD ++ ops)) : Leads s fun t => t.host = ops ∧ t.blk.phase = .DONE ∧
      t.blk.ERRCODE = .NONE ∧ ∃ d0 d1 d2 d3 older, t.reads = d3 :: d2 :: d1 :: d0 :: older ∧
        digestOfWords d0 d1 d2 d3 = MD5 m := by
  have hdone := h.tracks.blk.done_of_not_run h.not_run
  refine (leads_of_reads h.tracks.rst h.not_run (by decide) h.host).trans fun t ⟨hblk, hops, hreads⟩ => .refl ?_
  exact ⟨hops, hblk ▸ hdone, hblk ▸ h.errcode, _, _, _, _, _, hreads, h.tracks.blk.digest hdone⟩

/-- Settles O56, line by line: INIT, the chunks, FINISH, WAIT, READDIGEST. -/
theorem hashProgramReadsMd5 : Obligations.HashProgramReadsMd5 := by
  intro s cs ops rest hrst hrun hexpand hhost
  obtain ⟨hwf, rfl⟩ := expandLines_hashProgram hexpand
  rw [List.cons_append, List.append_assoc] at hhost
  have hfinished : Leads s (·.Ready (messageOf cs) true (digestRegs.map RD ++ rest)) :=
    (leads_of_init hrst hrun hhost).trans fun _ hinit => (hinit.leads_chunks hwf).trans fun _ hchunks =>
      hchunks.leads_finish.trans fun _ hfinish => hfinish.leads_wait
  obtain ⟨k, t, hk, hrest, hdone, herr, d0, d1, d2, d3, older, hreads, hdigest⟩ :=
    hfinished.trans fun _ hready => hready.leads_readDigest
  exact ⟨k, t, d0, d1, d2, d3, older, hk, hrest, hdone, herr, hreads, hdigest⟩

end Sys2Proof.Machine
end

section
/-! SUPPORT. Errors (60_exceptions.md R242 to R248): what a rejected CTRL write records, and that the recorded error is no part
of what a performed command does. -/

namespace Sys2Proof.Machine

theorem State.raiseError_eq (s : State) (c : ErrCode) :
    s.raiseError c = s.setBlk { s.blk with ERRCODE := if s.blk.ERRCODE = .NONE then c else s.blk.ERRCODE } :=
  congrArg s.setBlk (s.blk.raiseError_eq c)

/-- A recorded error gives way to no later one (R245). -/
theorem Block.raiseError_ERRCODE_of_recorded {b : Block} (h : b.ERRCODE ≠ .NONE) (c : ErrCode) :
    (b.raiseError c).ERRCODE = b.ERRCODE := by
  rw [Block.raiseError_ERRCODE, if_neg h]

theorem Block.clearError_of_none {b : Block} (h : b.ERRCODE = .NONE) : b.clearError = b := by
  rw [Block.clearError, ← h]

/-- No command's effect reads ERRCODE: clearing the error before it or after it is the same (R248). -/
theorem effectOf_clearError (i : Instr) (b : Block) : effectOf i b.clearError = (effectOf i b).clearError := by
  cases i with
  | init => rfl
  | absorb n =>
    change b.clearError.absorb n = (b.absorb n).clearError
    by_cases hlen : 64 ≤ b.M.length + n
    · rw [Block.absorb_forms_block hlen, Block.absorb_forms_block (b := b.clearError) hlen]; rfl
    · rw [Block.absorb_appends hlen, Block.absorb_appends (b := b.clearError) hlen]; rfl
  | finish =>
    change b.clearError.finish = b.finish.clearError
    by_cases hlen : b.M.length ≤ 55
    · rw [Block.finish_one hlen, Block.finish_one (b := b.clearError) hlen]; rfl
    · rw [Block.finish_two hlen, Block.finish_two (b := b.clearError) hlen]; rfl

/-- Settles O11: the phase alone decides that a command is accepted, and its effect commutes with clearing the error. -/
theorem errorsDoNotBlockCommands : Obligations.ErrorsDoNotBlockCommands := by
  intro i s e hwf hacc hnone
  have heffect : (effectOf i { s.blk with ERRCODE := e }).clearError = effectOf i s.blk := by
    calc (effectOf i { s.blk with ERRCODE := e }).clearError
        _ = effectOf i s.blk.clearError := (effectOf_clearError i _).symm
        _ = effectOf i s.blk := by rw [Block.clearError_of_none hnone]
  refine ⟨_, _, exec_accepted hwf hacc, exec_accepted hwf hacc, ?_, congrArg s.setBlk heffect⟩
  rw [State.setBlk_blk, ← heffect, Block.clearError_ERRCODE]

/-- Of the performed commands INIT alone writes ERRCODE (R248). -/
theorem CommandMove.errcode_of_ne_init {b c : Block} {i : Instr} (h : CommandMove b i c) (hne : i ≠ .init) :
    c.ERRCODE = b.ERRCODE := by
  cases h with
  | init => exact absurd rfl hne
  | absorbAppends | absorbFormsBlock | finishOne | finishTwo => rfl

/-- A performed command leaves a message open or a block in compression (40_host_commands.md R101 to R103). -/
theorem CommandMove.phase {b c : Block} {i : Instr} (h : CommandMove b i c) : c.phase = .OPEN ∨ c.phase = .RUN := by
  cases h with
  | init => exact .inl rfl
  | absorbAppends hopen => exact .inl hopen
  | absorbFormsBlock | finishOne | finishTwo => exact .inr rfl

/-- Settles O10: of the moves of the step only the reset and an accepted INIT clear ERRCODE, and only the rejected command
records an error. -/
theorem firstErrorKeptUntilInitOrReset : Obligations.FirstErrorKeptUntilInitOrReset := by
  intro s t hstep
  cases step_moves hstep with
  | engine hk _ _ ht =>
    obtain ⟨-, -, -, hkept⟩ := s.blk.engineStep_move.host_registers
    subst ht
    simp +contextual [hk.reset, hk.cmd, hkept]
  | reset hk _ ht => subst ht; simp [hk.reset, State.resetStep]
  | @command i _ _ hk hwf _ hacc _ ht =>
    subst ht
    rcases eq_or_ne i .init with rfl | hne
    · simp [hk.reset, hk.cmd, effectOf]
    · simp +contextual [hk.reset, hk.cmd, hne, (effectOf_move hwf hacc).errcode_of_ne_init hne]
  | rejected hk _ hword _ _ ht =>
    subst ht
    exact ⟨by simp [hk.reset, hk.cmd], fun _ _ hrec => Block.raiseError_ERRCODE_of_recorded hrec _,
      fun _ _ => ⟨hk.cmd, _, hword⟩⟩
  | dataIn hk _ _ _ ht => subst ht; simp +contextual [hk.reset, hk.cmd]
  | quiet hk hblk => simp +contextual [hk.reset, hk.cmd, hblk]

/-- A command outside its phases raises BUSY in RUN and SEQUENCE elsewhere (R243, R244). -/
theorem exec_of_rejected {i : Instr} {s : State} (hwf : i.wf = true) (hrej : acceptedIn i s.blk.phase = false) :
    exec i s = .next (s.raiseError (if s.blk.phase = .RUN then .BUSY else .SEQUENCE)) := by
  rcases exec_cases i hwf s with ⟨hacc, _⟩ | ⟨_, hrun, e⟩ | ⟨_, hrun, e⟩
  · exact nomatch hacc.symm.trans hrej
  · rw [e, if_pos hrun]
  · rw [e, if_neg hrun]

theorem exec_of_run {i : Instr} {s : State} (hwf : i.wf = true) (hrun : s.blk.phase = .RUN) :
    exec i s = .next (s.raiseError .BUSY) := by
  rw [exec_of_rejected hwf (hrun ▸ acceptedIn_run i), if_pos hrun]

/-- With no message open ABSORB and FINISH are rejected (R244). -/
theorem exec_of_no_message {i : Instr} {s : State} (hwf : i.wf = true) (hne : i ≠ .init)
    (hphase : s.blk.phase = .IDLE ∨ s.blk.phase = .DONE) : exec i s = .next (s.raiseError .SEQUENCE) := by
  have hrej : acceptedIn i s.blk.phase = false := by
    cases i with
    | init => exact absurd rfl hne
    | absorb | finish => rcases hphase with h | h <;> rw [h] <;> rfl
  have hrun : s.blk.phase ≠ .RUN := by rcases hphase with h | h <;> simp [h]
  rw [exec_of_rejected hwf hrej, if_neg hrun]

/-- Settles O31: a performed INIT clears ERRCODE, and a rejected one raises BUSY. -/
theorem sequenceRaisedByAbsorbAndFinishNeverByInit : Obligations.SequenceRaisedByAbsorbAndFinishNeverByInit := by
  refine ⟨fun s i hwf hne hphase => by rw [exec_of_no_message hwf hne hphase, State.raiseError_eq], fun s t h hseq => ?_⟩
  cases exec_move h with
  | performed hm =>
    cases hm with
    | init => cases hseq
  | rejected hrej he =>
    have hrun : s.blk.phase = .RUN := by simpa [acceptedIn] using hrej
    rw [if_pos hrun] at he
    rw [State.raiseError_blk, Block.raiseError_ERRCODE, he] at hseq
    split_ifs at hseq
    exact ⟨hseq, hrun⟩

/-- A word that decodes to no command raises ILLEGAL before the phase is looked at (R242, R246). -/
theorem ctrlWrite_of_illegal {v : Word} {e : IllegalWord} (h : decode v = .error e) (s : State) :
    ctrlWrite v s = .next (s.raiseError .ILLEGAL) := by
  simp only [ctrlWrite, h]

theorem ctrlWrite_of_run {v : Word} {i : Instr} {s : State} (h : decode v = .ok i) (hrun : s.blk.phase = .RUN) :
    ctrlWrite v s = .next (s.raiseError .BUSY) :=
  (ctrlWrite_of_decode h s).trans (exec_of_run (decode_wf h) hrun)

theorem ctrlWrite_of_no_message {v : Word} {i : Instr} {s : State} (h : decode v = .ok i) (hne : i ≠ .init)
    (hphase : s.blk.phase = .IDLE ∨ s.blk.phase = .DONE) : ctrlWrite v s = .next (s.raiseError .SEQUENCE) :=
  (ctrlWrite_of_decode h s).trans (exec_of_no_message (decode_wf h) hne hphase)

/-- A CTRL write that is performed ends in OPEN or RUN, and of the commands only INIT writes ERRCODE. -/
theorem ctrlWrite_of_accepted {v : Word} {i : Instr} {s : State} (h : decode v = .ok i)
    (hacc : acceptedIn i s.blk.phase = true) : ∃ t, ctrlWrite v s = .next t ∧ t.blk.phase ≠ .IDLE ∧ t.blk.phase ≠ .DONE ∧
      (i ≠ .init → t.blk.ERRCODE = s.blk.ERRCODE) := by
  have hm := effectOf_move (decode_wf h) hacc
  refine ⟨_, (ctrlWrite_of_decode h s).trans (exec_accepted (decode_wf h) hacc), ?_, ?_, hm.errcode_of_ne_init⟩ <;>
    rcases hm.phase with hphase | hphase <;> simp [hphase]

/-- Settles O30: the write by the first cause that applies, and the step as the same write by the host that has taken it off
its list. -/
theorem rejectedCtrlWriteRecordsItsFirstCauseOnly : Obligations.RejectedCtrlWriteRecordsItsFirstCauseOnly := by
  intro s v recorded
  have hraised (u : State) (c : ErrCode) := congrArg (Host.Outcome.next (φ := Fault) (ρ := Refusal)) (u.raiseError_eq c)
  refine ⟨fun ⟨_, he⟩ => (ctrlWrite_of_illegal he s).trans (hraised s _),
    fun _ hi hrun => (ctrlWrite_of_run hi hrun).trans (hraised s _),
    fun _ hi hne hphase => (ctrlWrite_of_no_message hi hne hphase).trans (hraised s _),
    fun _ hi hacc => ctrlWrite_of_accepted hi hacc, fun hword => ?_⟩
  have hstep := step_ctrlWrite hword
  set u := (s.setTurns s.turns.tail).setHost s.host.tail
  refine ⟨fun ⟨_, he⟩ => hstep.trans ((ctrlWrite_of_illegal he u).trans (hraised u _)),
    fun _ hi hrun => hstep.trans ((ctrlWrite_of_run (s := u) hi hrun).trans (hraised u _)),
    fun _ hi hne hphase => hstep.trans ((ctrlWrite_of_no_message (s := u) hi hne hphase).trans (hraised u _)),
    fun _ hi hacc => ⟨by rw [nextAccepted_of_ctrlWord hword hi, if_pos hacc], ?_⟩⟩
  obtain ⟨t, hwrite, -, -, herr⟩ := ctrlWrite_of_accepted (s := u) hi hacc
  exact ⟨t, hstep.trans hwrite, herr⟩

end Sys2Proof.Machine
end

section
/-! SUPPORT. The reset input (70_reset_and_hazards.md R270, R271): the steps that drive it, the block it holds, and the two
ways out of RUN. -/

namespace Sys2Proof.Machine

/-- The step in which the host drives `rst` high. -/
theorem step_rst_high {s : State} {ops : List HostOp} (hagent : s.nextAgent = .host) (hhost : s.host = .rst true :: ops) :
    step s = .next ((s.setTurns s.turns.tail).setHost ops).resetStep :=
  step_host hagent hhost

/-- The step in which the host releases `rst`. -/
theorem step_rst_low {s : State} {ops : List HostOp} (hagent : s.nextAgent = .host) (hhost : s.host = .rst false :: ops) :
    step s = .next (((s.setTurns s.turns.tail).setHost ops).setRst false) :=
  step_host hagent hhost

theorem nextIsReset_iff {s : State} : s.nextIsReset = true ↔ s.nextAgent = .host ∧ ∃ ops, s.host = .rst true :: ops := by
  unfold State.nextIsReset
  split
  next ops hagent hhost => simp [hagent, hhost]
  next hother => exact ⟨nofun, fun ⟨hagent, ops, hhost⟩ => (hother ops hagent hhost).elim⟩

theorem State.memRead_of_rst_high {s : State} (h : s.rst = true) (off : Nat) : s.memRead off = 0x00000000 :=
  if_pos h

theorem memWrite_of_rst_high {s : State} (h : s.rst = true) (off : Nat) (v : Word) : memWrite off v s = .next s :=
  if_pos h

theorem engineTurn_of_rst_high {s : State} (h : s.rst = true) : engineTurn s = s :=
  if_neg (by simp [State.engineEnabled, h])

/-- While `rst` is high every move of the step but the reset step is quiet. -/
theorem blk_eq_of_rst_high {s t : State} (hrst : s.rst = true) (hreset : s.nextIsReset = false) (hstep : step s = .next t) :
    t.blk = s.blk := by
  cases step_moves hstep with
  | reset hk => exact nomatch hk.reset.symm.trans hreset
  | quiet _ hblk => exact hblk
  | engine _ _ hlow | command _ _ hlow | rejected _ hlow | dataIn _ hlow => exact nomatch hlow.symm.trans hrst

/-- Only a reset step raises `rst`. -/
theorem rst_low_of_step {s t : State} (hrst : s.rst = false) (hreset : s.nextIsReset = false) (hstep : step s = .next t) :
    t.rst = false := by
  cases step_moves hstep with
  | reset hk => exact nomatch hk.reset.symm.trans hreset
  | quiet _ _ hlow => exact hlow.elim (·.trans hrst) id
  | engine _ _ _ ht | command _ _ _ _ _ ht | rejected _ _ _ _ _ ht | dataIn _ _ _ _ ht => subst ht; exact hrst

/-- Settles O2: the reset step leaves the reset contents, and `rst` high hides every register. -/
theorem resetStepFromEveryState : Obligations.ResetStepFromEveryState :=
  fun _ _ hagent hhost => ⟨_, step_rst_high hagent hhost, Block.atReset_inReset _, rfl, rfl, rfl,
    State.memRead_of_rst_high rfl⟩

/-- Settles O3: with `rst` high only the reset step and the quiet step remain of the step's moves. -/
theorem blockHeldWhileRstHigh : Obligations.BlockHeldWhileRstHigh := by
  refine ⟨fun s hrst => ⟨memWrite_of_rst_high hrst, State.memRead_of_rst_high hrst, engineTurn_of_rst_high hrst,
    fun t hstep hne => ?_⟩, fun s ops hagent hhost => ⟨_, step_rst_low hagent hhost, rfl, rfl, rfl⟩⟩
  by_contra hreset
  exact hne (blk_eq_of_rst_high hrst (Bool.eq_false_iff.mpr hreset) hstep)

/-- The accumulate step ends the RUN, but where a second padding block follows (44_round_loop.md R197). -/
theorem Block.accumulateStep_leaves_run {b : Block} (h : b.run_next ≠ .TO_PAD2) : b.accumulateStep.phase ≠ .RUN := by
  cases hnext : b.run_next with
  | TO_OPEN => rw [Block.accumulateStep_to_open hnext]; exact nofun
  | TO_PAD2 => exact absurd hnext h
  | TO_DONE => rw [Block.accumulateStep_to_done hnext]; exact nofun

/-- Settles O8: of the phase's transitions only the last two and reset leave RUN. -/
theorem runIsLeftOnlyByAccumulateOrReset : Obligations.RunIsLeftOnlyByAccumulateOrReset := by
  refine ⟨fun s t hstep hrun hleft => ?_, fun s hengine hlast hnext => ?_, fun s hreset => ?_⟩
  · rcases phaseChangesOnlyAlongItsTransitions s t hstep (hrun ▸ hleft) with
      ⟨hreset, -⟩ | ⟨-, hphase, -⟩ | ⟨_, -, -, -, hphase⟩ | ⟨-, -, hphase⟩ | ⟨hengine, -, hlast, hnext, -⟩ |
      ⟨hengine, -, hlast, hnext, -⟩
    · exact .inr hreset
    · exact absurd hrun hphase
    · exact absurd hphase hleft
    · exact absurd hphase hleft
    · exact .inl ⟨hengine, hlast, by simp [hnext]⟩
    · exact .inl ⟨hengine, hlast, by simp [hnext]⟩
  · refine ⟨_, step_engine hengine, ?_⟩
    rw [State.setBlk_blk, Block.engineStep_last hlast]
    exact Block.accumulateStep_leaves_run hnext
  · obtain ⟨hagent, ops, hhost⟩ := nextIsReset_iff.mp hreset
    exact ⟨_, step_rst_high hagent hhost, nofun⟩

end Sys2Proof.Machine
end

section
/-! SUPPORT. Which commands start a RUN, and that every RUN ends (70_reset_and_hazards.md R274, R280). -/

namespace Sys2Proof.Machine

/-- ABSORB starts a RUN where the buffer then holds a block (40_host_commands.md R102). -/
theorem Block.absorb_run_iff {b : Block} {n : Nat} (hopen : b.phase = .OPEN) :
    (b.absorb n).phase = .RUN ↔ 64 ≤ b.M.length + n := by
  by_cases hlen : 64 ≤ b.M.length + n
  · simp [Block.absorb_forms_block hlen, hlen]
  · simp [Block.absorb_appends hlen, hlen, hopen]

/-- A length crosses a multiple of 64 where the bytes added complete the block begun. -/
theorem crosses_block_iff {p n : Nat} : 64 ≤ p % 64 + n ↔ (p + n) / 64 ≠ p / 64 := by
  omega

/-- Settles O36: the fill is the message's length mod 64, and ABSORB starts a RUN by the fill and its count. -/
theorem absorbStartsARunWhenLengthCrossesABlock : Obligations.AbsorbStartsARunWhenLengthCrossesABlock := by
  intro s t m n hdelivered hcmd hstep
  obtain ⟨-, hacc, -, hblk⟩ := step_accepted hcmd hstep
  have hopen : s.blk.phase = .OPEN := of_decide_eq_true hacc
  obtain ⟨-, hholds⟩ := hdelivered.tracks.blk.opened hopen
  have hfill := hholds.fill
  have hrun : t.blk.phase = .RUN ↔ 64 ≤ m.length % 64 + n := by
    rw [hblk, ← hfill]
    exact Block.absorb_run_iff hopen
  exact ⟨hrun, hrun.trans crosses_block_iff, (Block.FILL_toNat (by omega)).trans hfill⟩

/-- Settles O50: a plain host keeps `rst` low and takes every step, so RUN ends within its patience. -/
theorem everyRunEnds : Obligations.EveryRunEnds := by
  intro s _ hrst hplain
  obtain ⟨k, t, hk, hrunk, -, hleft⟩ := run_ends_within_patience
    (P := fun u => u.rst = false ∧ u.host.all HostOp.plain = true) (fun _ hu => hu.1)
    (fun u ⟨hlow, hhost⟩ _ => by
      obtain ⟨hreset, t, hstep, ht⟩ := step_of_plain hhost
      exact ⟨hreset, t, hstep, rst_low_of_step hlow hreset hstep, ht⟩)
    ⟨hrst, hplain⟩
  exact ⟨k, t, hk.trans s.patience_le, hrunk, hleft⟩

end Sys2Proof.Machine
end

section
/-! SUPPORT. FINISH; FINISH with no WAIT between them (70_reset_and_hazards.md R278): the block a RUN ends with is fixed when
the RUN starts, but for the error the second FINISH records. -/

namespace Sys2Proof.Machine

/-- The block as the RUN leaves it, after the engine steps that are left. -/
def Block.runEnd (b : Block) : Block := Block.engineSteps b.stepsLeft b

theorem Block.runEnd_of_not_run {b : Block} (h : b.phase ≠ .RUN) : b.runEnd = b := by
  rw [Block.runEnd, Block.stepsLeft_of_not_run h]
  rfl

theorem Block.runEnd_engineStep {b : Block} (hrun : b.phase = .RUN) : b.engineStep.runEnd = b.runEnd := by
  rw [Block.runEnd, Block.runEnd, Block.stepsLeft_engineStep hrun]
  rfl

/-- The engine's step and the recording of an error commute (44_round_loop.md R198). -/
theorem Block.engineStep_raiseError (b : Block) (c : ErrCode) : (b.raiseError c).engineStep = b.engineStep.raiseError c := by
  obtain ⟨hdata, hM, hbitlen, herr⟩ := b.engineStep_move.host_registers
  let e := if b.ERRCODE = .NONE then c else b.ERRCODE
  calc (b.raiseError c).engineStep
      _ = (b.withHostRegisters b.DATA_IN b.M b.BITLEN e).engineStep := by rw [Block.raiseError_eq]; rfl
      _ = b.engineStep.withHostRegisters b.DATA_IN b.M b.BITLEN e :=
        Block.engineStep_withHostRegisters _ _ _ (.inr (.inr rfl))
      _ = b.engineStep.raiseError c := by rw [Block.raiseError_eq, herr, ← hdata, ← hM, ← hbitlen]; rfl

theorem Block.engineSteps_raiseError (k : Nat) (b : Block) (c : ErrCode) :
    Block.engineSteps k (b.raiseError c) = (Block.engineSteps k b).raiseError c := by
  induction k generalizing b with
  | zero => rfl
  | succ k ih =>
    show Block.engineSteps k (b.raiseError c).engineStep = _
    rw [Block.engineStep_raiseError, ih]
    rfl

theorem Block.engineSteps_ERRCODE (k : Nat) (b : Block) : (Block.engineSteps k b).ERRCODE = b.ERRCODE := by
  induction k generalizing b with
  | zero => rfl
  | succ k ih =>
    obtain ⟨-, -, -, herr⟩ := b.engineStep_move.host_registers
    exact (ih b.engineStep).trans herr

theorem Block.runEnd_raiseError (b : Block) (c : ErrCode) : (b.raiseError c).runEnd = b.runEnd.raiseError c := by
  have hleft : (b.raiseError c).stepsLeft = b.stepsLeft := Block.stepsLeft_congr (by simp) (by simp) (by simp)
  rw [Block.runEnd, hleft, Block.engineSteps_raiseError]
  rfl

/-- A block that is the last ends in DONE (44_round_loop.md R197). -/
theorem Block.engineSteps_blockStart_done (b : Block) (blk : List Byte) :
    (Block.engineSteps 65 (b.blockStart blk .TO_DONE)).phase = .DONE := by
  rw [Block.engineSteps_blockStart, Block.accumulateStep_to_done rfl]

/-- The RUN that FINISH starts: its count of engine steps and its end in DONE (40_host_commands.md R103). -/
theorem Block.finish_run (b : Block) :
    b.finish.stepsLeft = (if b.M.length ≤ 55 then 65 else 130) ∧ b.finish.runEnd.phase = .DONE := by
  by_cases hlen : b.M.length ≤ 55
  · rw [Block.finish_one hlen, if_pos hlen]
    exact ⟨Block.stepsLeft_blockStart _ _ _, Block.engineSteps_blockStart_done _ _⟩
  · rw [Block.finish_two hlen, if_neg hlen]
    obtain ⟨c, -, hpad2⟩ := Block.engineSteps_blockStart_pad2 { b with M := [] } (finalBlockFirst b.M)
    refine ⟨Block.stepsLeft_blockStart _ _ _, ?_⟩
    show (Block.engineSteps (65 + 65) _).phase = _
    rw [Block.engineSteps_add, hpad2]
    exact Block.engineSteps_blockStart_done _ _

theorem Block.finish_phase (b : Block) : b.finish.phase = .RUN := by
  rw [Block.run_iff_stepsLeft_pos, b.finish_run.1]
  split_ifs <;> omega

/-- The machine is out of reset, its block ends its RUN as b, and the host has `ops` to do. -/
structure State.EndsAs (s : State) (b : Block) (ops : List HostOp) : Prop where
  rst : s.rst = false
  host : s.host = ops
  runEnd : s.blk.runEnd = b

/-- What the host still has to do after the first FINISH. -/
def secondFinish : List HostOp := [WR .CTRL (encode .finish)]

/-- The step in which the host writes FINISH. -/
theorem step_writeFinish {s : State} {ops : List HostOp} (hagent : s.nextAgent = .host) (hrst : s.rst = false)
    (hhost : s.host = WR .CTRL (encode .finish) :: ops) :
    step s = exec .finish ((s.setTurns s.turns.tail).setHost ops) :=
  stepRunsTheDecodedCommand s _ _ _ ops hagent hrst hhost rfl (decode_encode rfl)

/-- The first FINISH is performed. -/
theorem step_firstFinish {s : State} (hagent : s.nextAgent = .host) (hrst : s.rst = false) (hopen : s.blk.phase = .OPEN)
    (hhost : s.host = WR .CTRL (encode .finish) :: secondFinish) : ∃ t, step s = .next t ∧
      t.EndsAs s.blk.finish.runEnd secondFinish ∧ t.blk.phase = .RUN ∧ t.turns = s.turns.tail :=
  ⟨_, (step_writeFinish hagent hrst hhost).trans (exec_accepted rfl (decide_eq_true hopen)),
    ⟨hrst, rfl, rfl⟩, s.blk.finish_phase, rfl⟩

/-- In RUN the engine's step leaves the end of the RUN as it is. -/
theorem State.EndsAs.step_engine {s : State} {b : Block} {ops : List HostOp} (h : s.EndsAs b ops)
    (hagent : s.nextAgent = .engine) (hrun : s.blk.phase = .RUN) :
    ∃ t, step s = .next t ∧ t.EndsAs b ops ∧ t.turns = s.turns.tail :=
  ⟨_, step_engine_of_run hagent h.rst hrun, ⟨h.rst, h.host, (Block.runEnd_engineStep hrun).trans h.runEnd⟩, rfl⟩

/-- In RUN the second FINISH is dropped and records BUSY (60_exceptions.md R243). -/
theorem State.EndsAs.step_busy {s : State} {b : Block} (h : s.EndsAs b secondFinish) (hagent : s.nextAgent = .host)
    (hrun : s.blk.phase = .RUN) : ∃ t, step s = .next t ∧ t.EndsAs (b.raiseError .BUSY) [] := by
  have hstep := (step_writeFinish hagent h.rst h.host).trans (exec_of_run rfl (by exact hrun))
  exact ⟨_, hstep, h.rst, rfl, (s.blk.runEnd_raiseError .BUSY).trans (congrArg (Block.raiseError · .BUSY) h.runEnd)⟩

/-- After the RUN the second FINISH meets DONE and records SEQUENCE (60_exceptions.md R244). -/
theorem State.EndsAs.leads_sequence {s : State} {b : Block} (h : s.EndsAs b secondFinish) (hleft : s.blk.phase ≠ .RUN)
    (hdone : b.phase = .DONE) : Leads s (·.EndsAs (b.raiseError .SEQUENCE) []) := by
  have hblk : s.blk = b := (Block.runEnd_of_not_run hleft).symm.trans h.runEnd
  obtain ⟨k, ts, hk, hagent⟩ := exists_host_turn hleft
  have hstep := (step_writeFinish hagent h.rst h.host).trans
    (exec_of_no_message rfl nofun (.inr (by rw [← hdone, ← hblk]; rfl)))
  refine .of_run hk ⟨1, _, run_succ_next 0 hstep, h.rst, rfl, ?_⟩
  show (s.blk.raiseError .SEQUENCE).runEnd = _
  rw [Block.runEnd_of_not_run (by simpa using hleft), hblk]

/-- Outside RUN, with nothing left to do, the turns given pass without effect (R281). -/
theorem leads_turns_used {s : State} (hleft : s.blk.phase ≠ .RUN) (hhost : s.host = []) :
    Leads s (· = s.setTurns []) := by
  induction hts : s.turns generalizing s with
  | nil => exact .refl (by rw [← hts]; rfl)
  | cons a ts ih =>
    have hstep : step s = .next (s.setTurns s.turns.tail) := by
      cases hagent : s.nextAgent with
      | host => exact step_host_nil hagent hhost
      | engine => rw [step_engineTurn hagent, engineTurn_of_not_run (by exact hleft)]
    exact .of_run (run_succ_next 0 hstep) (ih (s := s.setTurns s.turns.tail) hleft hhost (by simp [hts]))

/-- The host has nothing to do, the turns are used up and the block is b. -/
structure State.EndedAs (s : State) (b : Block) : Prop where
  host : s.host = []
  turns : s.turns = []
  blk : s.blk = b

/-- In RUN a host with nothing left to do leaves the end of the RUN as it is. -/
theorem State.EndsAs.step_idle {s : State} {b : Block} (h : s.EndsAs b []) (hrun : s.blk.phase = .RUN) :
    s.nextIsReset = false ∧ ∃ t, step s = .next t ∧ t.EndsAs b [] := by
  refine ⟨by simp [State.nextIsReset, h.host], ?_⟩
  cases hagent : s.nextAgent with
  | engine =>
    obtain ⟨t, hstep, ht, -⟩ := h.step_engine hagent hrun
    exact ⟨t, hstep, ht⟩
  | host => exact ⟨_, step_host_nil hagent h.host, h.rst, h.host, h.runEnd⟩

/-- With nothing left to do for the host, the machine comes to the end of the RUN and of the turns given. -/
theorem State.EndsAs.leads_end {s : State} {b : Block} (h : s.EndsAs b []) : Leads s (·.EndedAs b) := by
  obtain ⟨k, t, -, hk, ht, hleft⟩ := run_ends_within_patience (P := (·.EndsAs b [])) (fun _ hu => hu.rst)
    (fun _ hu => hu.step_idle) h
  have hblk : t.blk = b := (Block.runEnd_of_not_run hleft).symm.trans ht.runEnd
  exact .of_run hk <| (leads_turns_used hleft ht.host).trans fun _ hu => .refl (hu ▸ ⟨ht.host, rfl, hblk⟩)

/-- With no turns given the engine moves until the RUN ends, and the second FINISH comes after it (R280). -/
theorem State.EndsAs.leads_sequence_of_turns_nil {s : State} {b : Block} (h : s.EndsAs b secondFinish)
    (hturns : s.turns = []) (hdone : b.phase = .DONE) : Leads s (·.EndsAs (b.raiseError .SEQUENCE) []) := by
  obtain ⟨k, t, -, hk, ⟨ht, -⟩, hleft⟩ := run_ends_within_patience
    (P := fun u => u.EndsAs b secondFinish ∧ u.turns = []) (fun _ hu => hu.1.rst)
    (fun u ⟨hu, hnil⟩ hrun => by
      have hagent : u.nextAgent = .engine := by
        simp [State.nextAgent, hnil, State.engineEnabled, Block.engineEnabled, hu.rst, hrun]
      obtain ⟨t, hstep, ht, htail⟩ := hu.step_engine hagent hrun
      exact ⟨nextIsReset_of_plain hu.host rfl, t, hstep, ht, by rw [htail, hnil, List.tail_nil]⟩)
    ⟨h, hturns⟩
  exact .of_run hk (ht.leads_sequence hleft hdone)

/-- Under any turns the second FINISH comes in the RUN or after it. -/
theorem State.EndsAs.leads_race {s : State} {b : Block} (h : s.EndsAs b secondFinish) (hdone : b.phase = .DONE) :
    Leads s fun t => t.EndsAs (b.raiseError .BUSY) [] ∨ t.EndsAs (b.raiseError .SEQUENCE) [] := by
  obtain ⟨k, t, -, hk, ht, hleft⟩ := run_ends_within_patience
    (P := fun u => u.EndsAs b secondFinish ∨ u.EndsAs (b.raiseError .BUSY) []) (fun _ hu => hu.elim (·.rst) (·.rst))
    (fun u hu hrun => by
      rcases hu with hu | hu
      · refine ⟨nextIsReset_of_plain hu.host rfl, ?_⟩
        cases hagent : u.nextAgent with
        | engine =>
          obtain ⟨t, hstep, ht, -⟩ := hu.step_engine hagent hrun
          exact ⟨t, hstep, .inl ht⟩
        | host =>
          obtain ⟨t, hstep, ht⟩ := hu.step_busy hagent hrun
          exact ⟨t, hstep, .inr ht⟩
      · obtain ⟨hreset, t, hstep, ht⟩ := hu.step_idle hrun
        exact ⟨hreset, t, hstep, .inr ht⟩)
    (.inl h)
  rcases ht with ht | ht
  · exact .of_run hk ((ht.leads_sequence hleft hdone).trans fun _ hu => .refl (.inr hu))
  · exact .of_run hk (.refl (.inl ht))

/-- Settles O57: the first FINISH fixes the block the RUN ends with, and the second adds BUSY to it where it comes in the RUN,
and SEQUENCE where it comes after. -/
theorem unpolledSecondFinishIsARace : Obligations.UnpolledSecondFinishIsARace := by
  intro s hrst hopen hnone hhost digest ends
  obtain ⟨hcount, hdone⟩ := s.blk.finish_run
  set b := s.blk.finish.runEnd with hb
  have hdigest : b.chain = digest := by rw [hb, Block.runEnd, hcount]
  have hkept : s.blk.finish.ERRCODE = s.blk.ERRCODE :=
    (effectOf_move (i := .finish) rfl (decide_eq_true hopen)).errcode_of_ne_init nofun
  have herr : b.ERRCODE = .NONE := (Block.engineSteps_ERRCODE _ _).trans (hkept.trans hnone)
  have hends {ts : List Agent} {c : ErrCode} {t : State} {k : Nat} (hk : run k (s.setTurns ts) = .next t)
      (ht : t.EndsAs (b.raiseError c) []) : ends ts c := by
    obtain ⟨j, u, hj, hops, hturns, hblk⟩ := ht.leads_end
    refine ⟨k + j, u, run_trans hk hj, hops, hturns, ?_, ?_, ?_⟩ <;> rw [hblk]
    · rw [Block.raiseError_phase, hdone]
    · rw [Block.raiseError_ERRCODE, if_pos herr]
    · rw [Block.raiseError_chain, hdigest]
  have hfirst {ts : List Agent} (hagent : (s.setTurns ts).nextAgent = .host) :=
    step_firstFinish hagent hrst hopen hhost
  refine ⟨⟨[.host, .host], ?_⟩, ⟨[], ?_⟩, fun ts => ?_⟩
  · obtain ⟨t, hstep, ht, hrun, hturns⟩ := hfirst (ts := [.host, .host]) rfl
    obtain ⟨u, hstep', hu⟩ := ht.step_busy (by rw [State.nextAgent, hturns]; rfl) hrun
    exact hends (k := 2) ((run_succ_next 1 hstep).trans (run_succ_next 0 hstep')) hu
  · obtain ⟨t, hstep, ht, -, hturns⟩ := hfirst (ts := [])
      (by simp [State.nextAgent, State.engineEnabled, Block.engineEnabled, hopen])
    obtain ⟨k, u, hk, hu⟩ := ht.leads_sequence_of_turns_nil hturns hdone
    exact hends ((run_succ_next k hstep).trans hk) hu
  · obtain ⟨j, ts', hj, hagent⟩ := exists_host_turn (s := s.setTurns ts) (by simp [hopen])
    obtain ⟨t, hstep, ht, -⟩ := hfirst (ts := ts') hagent
    obtain ⟨k, u, hk, hu⟩ := ht.leads_race hdone
    have hrunk := run_trans hj ((run_succ_next k hstep).trans hk)
    exact hu.imp (hends hrunk) (hends hrunk)

end Sys2Proof.Machine
end
